-- ==== Sys2Proof/Word.lean ====
section
/-! DEFINITION. The value types of the hardware (R4, R7): every value is an unsigned bit vector of fixed width. -/

namespace Sys2Proof

/-- An 8-bit value: a general register, a memory byte, `kk`, DT, ST, SP (R4). -/
abbrev Byte := BitVec 8

/-- A 16-bit value: an instruction word, PC, I, a call-stack entry (R4). -/
abbrev Word := BitVec 16

/-- A general register number, the field `x` or `y` (R61). -/
abbrev RegNum := BitVec 4

/-- The 12-bit address immediate `nnn` (R61). -/
abbrev Addr := BitVec 12

/-- A sprite row count, the field `n` (R61, R63). -/
abbrev RowCount := BitVec 4

/-- A key code, 0x0 to 0xF (R24). -/
abbrev KeyCode := BitVec 4

end Sys2Proof
end

