-- ==== Sys2Proof/Syntax.lean ====
section
/-! DEFINITION. The 34 instructions of R66, one constructor per row of spec/opcode_table.json. The fields have the widths of
R61, so a register number is 4 bits, a byte 8, an address 12. -/

namespace Sys2Proof

inductive Instr where
  /-- 00E0 CLS (R130). -/
  | cls
  /-- 00EE RET (R81). -/
  | ret
  /-- 1nnn JP nnn (R82). -/
  | jp (nnn : Addr)
  /-- 2nnn CALL nnn (R83). -/
  | call (nnn : Addr)
  /-- 3xkk SE Vx,kk (R84). -/
  | seByte (x : RegNum) (kk : Byte)
  /-- 4xkk SNE Vx,kk (R85). -/
  | sneByte (x : RegNum) (kk : Byte)
  /-- 5xy0 SE Vx,Vy (R86). -/
  | seReg (x y : RegNum)
  /-- 6xkk LD Vx,kk (R100). -/
  | ldByte (x : RegNum) (kk : Byte)
  /-- 7xkk ADD Vx,kk (R101). -/
  | addByte (x : RegNum) (kk : Byte)
  /-- 8xy0 LD Vx,Vy (R102). -/
  | ldReg (x y : RegNum)
  /-- 8xy1 OR Vx,Vy (R103). -/
  | orReg (x y : RegNum)
  /-- 8xy2 AND Vx,Vy (R104). -/
  | andReg (x y : RegNum)
  /-- 8xy3 XOR Vx,Vy (R105). -/
  | xorReg (x y : RegNum)
  /-- 8xy4 ADD Vx,Vy (R106). -/
  | addReg (x y : RegNum)
  /-- 8xy5 SUB Vx,Vy (R107). -/
  | subReg (x y : RegNum)
  /-- 8xy6 SHR Vx,Vy (R108). -/
  | shr (x y : RegNum)
  /-- 8xy7 SUBN Vx,Vy (R109). -/
  | subn (x y : RegNum)
  /-- 8xyE SHL Vx,Vy (R110). -/
  | shl (x y : RegNum)
  /-- 9xy0 SNE Vx,Vy (R87). -/
  | sneReg (x y : RegNum)
  /-- Annn LD I,nnn (R120). -/
  | ldI (nnn : Addr)
  /-- Bnnn JP V0,nnn (R88). -/
  | jpV0 (nnn : Addr)
  /-- Cxkk RND Vx,kk (R111). -/
  | rnd (x : RegNum) (kk : Byte)
  /-- Dxyn DRW Vx,Vy,n (R131). -/
  | drw (x y : RegNum) (n : RowCount)
  /-- Ex9E SKP Vx (R150). -/
  | skp (x : RegNum)
  /-- ExA1 SKNP Vx (R151). -/
  | sknp (x : RegNum)
  /-- Fx07 LD Vx,DT (R153). -/
  | ldVxDt (x : RegNum)
  /-- Fx0A LD Vx,K (R152). -/
  | ldVxK (x : RegNum)
  /-- Fx15 LD DT,Vx (R154). -/
  | ldDtVx (x : RegNum)
  /-- Fx18 LD ST,Vx (R155). -/
  | ldStVx (x : RegNum)
  /-- Fx1E ADD I,Vx (R121). -/
  | addI (x : RegNum)
  /-- Fx29 LD F,Vx (R122). -/
  | ldF (x : RegNum)
  /-- Fx33 LD B,Vx (R123). -/
  | ldB (x : RegNum)
  /-- Fx55 LD [I],Vx (R124). -/
  | ldMemVx (x : RegNum)
  /-- Fx65 LD Vx,[I] (R125). -/
  | ldVxMem (x : RegNum)
  deriving DecidableEq, Repr

end Sys2Proof
end

