-- ==== Sys2Proof/Decode.lean ====
section
/-! DEFINITION. Decoding (R60 to R69) and the encoder. The decoder is total on the 65536 words: it gives one of the 34
instructions, or names the family of the unrecognised word (R68), whose meaning is the no-operation R89. -/

namespace Sys2Proof

/-- The family nibble `op` = W[15:12] (R61). -/
def fieldOp (w : Word) : BitVec 4 := w.extractLsb' 12 4

/-- The register number `x` = W[11:8] (R61). -/
def fieldX (w : Word) : RegNum := w.extractLsb' 8 4

/-- The register number `y` = W[7:4] (R61). -/
def fieldY (w : Word) : RegNum := w.extractLsb' 4 4

/-- The nibble `n` = W[3:0] (R61). -/
def fieldN (w : Word) : BitVec 4 := w.extractLsb' 0 4

/-- The byte `kk` = W[7:0] (R61). -/
def fieldKK (w : Word) : Byte := w.extractLsb' 0 8

/-- The address `nnn` = W[11:0] (R61). -/
def fieldNNN (w : Word) : Addr := w.extractLsb' 0 12

/-- Why a word is none of the 34 instructions: the row of R68's table it falls in. It is no error; the CPU executes it as the
no-operation of R89. -/
inductive Unrecognised where
  /-- 0nnn other than 00E0 and 00EE. -/
  | family0
  /-- 5xyn with n not 0. -/
  | family5
  /-- 8xyn with n in 8, 9, A, B, C, D, F. -/
  | family8
  /-- 9xyn with n not 0. -/
  | family9
  /-- Exkk with kk neither 9E nor A1. -/
  | familyE
  /-- Fxkk with kk none of 07, 0A, 15, 18, 1E, 29, 33, 55, 65. -/
  | familyF
  deriving DecidableEq, Repr

/-- Family 0: all 16 bits are compared (R67). -/
def decodeFamily0 (w : Word) : Except Unrecognised Instr :=
  if w = 0x00E0#16 then .ok .cls
  else if w = 0x00EE#16 then .ok .ret
  else .error .family0

/-- Families 5 and 9: `n` must be 0 (R67). -/
def decodeCompare (w : Word) (i : RegNum → RegNum → Instr) (e : Unrecognised) : Except Unrecognised Instr :=
  if fieldN w = 0#4 then .ok (i (fieldX w) (fieldY w)) else .error e

/-- Family 8: dispatch on the bottom 4 bits (R64). -/
def decodeFamily8 (w : Word) : Except Unrecognised Instr :=
  match (fieldN w).toNat with
  | 0x0 => .ok (.ldReg (fieldX w) (fieldY w))
  | 0x1 => .ok (.orReg (fieldX w) (fieldY w))
  | 0x2 => .ok (.andReg (fieldX w) (fieldY w))
  | 0x3 => .ok (.xorReg (fieldX w) (fieldY w))
  | 0x4 => .ok (.addReg (fieldX w) (fieldY w))
  | 0x5 => .ok (.subReg (fieldX w) (fieldY w))
  | 0x6 => .ok (.shr (fieldX w) (fieldY w))
  | 0x7 => .ok (.subn (fieldX w) (fieldY w))
  | 0xE => .ok (.shl (fieldX w) (fieldY w))
  | _ => .error .family8

/-- Family E: dispatch on the bottom 8 bits (R64). -/
def decodeFamilyE (w : Word) : Except Unrecognised Instr :=
  if fieldKK w = 0x9E#8 then .ok (.skp (fieldX w))
  else if fieldKK w = 0xA1#8 then .ok (.sknp (fieldX w))
  else .error .familyE

/-- Family F: dispatch on the bottom 8 bits (R64). -/
def decodeFamilyF (w : Word) : Except Unrecognised Instr :=
  if fieldKK w = 0x07#8 then .ok (.ldVxDt (fieldX w))
  else if fieldKK w = 0x0A#8 then .ok (.ldVxK (fieldX w))
  else if fieldKK w = 0x15#8 then .ok (.ldDtVx (fieldX w))
  else if fieldKK w = 0x18#8 then .ok (.ldStVx (fieldX w))
  else if fieldKK w = 0x1E#8 then .ok (.addI (fieldX w))
  else if fieldKK w = 0x29#8 then .ok (.ldF (fieldX w))
  else if fieldKK w = 0x33#8 then .ok (.ldB (fieldX w))
  else if fieldKK w = 0x55#8 then .ok (.ldMemVx (fieldX w))
  else if fieldKK w = 0x65#8 then .ok (.ldVxMem (fieldX w))
  else .error .familyF

/-- The decoding procedure of R64, total on every word. The straps take no part (R65). -/
def decode (w : Word) : Except Unrecognised Instr :=
  match (fieldOp w).toNat with
  | 0x0 => decodeFamily0 w
  | 0x1 => .ok (.jp (fieldNNN w))
  | 0x2 => .ok (.call (fieldNNN w))
  | 0x3 => .ok (.seByte (fieldX w) (fieldKK w))
  | 0x4 => .ok (.sneByte (fieldX w) (fieldKK w))
  | 0x5 => decodeCompare w .seReg .family5
  | 0x6 => .ok (.ldByte (fieldX w) (fieldKK w))
  | 0x7 => .ok (.addByte (fieldX w) (fieldKK w))
  | 0x8 => decodeFamily8 w
  | 0x9 => decodeCompare w .sneReg .family9
  | 0xA => .ok (.ldI (fieldNNN w))
  | 0xB => .ok (.jpV0 (fieldNNN w))
  | 0xC => .ok (.rnd (fieldX w) (fieldKK w))
  | 0xD => .ok (.drw (fieldX w) (fieldY w) (fieldN w))
  | 0xE => decodeFamilyE w
  | _ => decodeFamilyF w

/-- The word two consecutive bytes hold, the byte at the lower address more significant (R41, R60). -/
def wordOfBytes (hi lo : Byte) : Word := hi ++ lo

/-- The instruction that two consecutive bytes hold. -/
def decodeBytes (hi lo : Byte) : Except Unrecognised Instr := decode (wordOfBytes hi lo)

/-- The more significant byte of a word, the one at the lower address (R41). -/
def highByte (w : Word) : Byte := w.extractLsb' 8 8

/-- The less significant byte of a word. -/
def lowByte (w : Word) : Byte := w.extractLsb' 0 8

/-- A word of format `A` (R62). -/
def wordA (op : BitVec 4) (nnn : Addr) : Word := op ++ nnn

/-- A word of format `XK` (R62), and of format `XS` with the sub-opcode as `kk`. -/
def wordXK (op : BitVec 4) (x : RegNum) (kk : Byte) : Word := op ++ x ++ kk

/-- A word of format `XYN` (R62), and of format `XY` with the sub-opcode as `n`. -/
def wordXYN (op : BitVec 4) (x y : RegNum) (n : BitVec 4) : Word := op ++ x ++ y ++ n

/-- The word of an instruction, from the patterns of R66. -/
def encode : Instr → Word
  | .cls => 0x00E0#16
  | .ret => 0x00EE#16
  | .jp nnn => wordA 0x1#4 nnn
  | .call nnn => wordA 0x2#4 nnn
  | .seByte x kk => wordXK 0x3#4 x kk
  | .sneByte x kk => wordXK 0x4#4 x kk
  | .seReg x y => wordXYN 0x5#4 x y 0x0#4
  | .ldByte x kk => wordXK 0x6#4 x kk
  | .addByte x kk => wordXK 0x7#4 x kk
  | .ldReg x y => wordXYN 0x8#4 x y 0x0#4
  | .orReg x y => wordXYN 0x8#4 x y 0x1#4
  | .andReg x y => wordXYN 0x8#4 x y 0x2#4
  | .xorReg x y => wordXYN 0x8#4 x y 0x3#4
  | .addReg x y => wordXYN 0x8#4 x y 0x4#4
  | .subReg x y => wordXYN 0x8#4 x y 0x5#4
  | .shr x y => wordXYN 0x8#4 x y 0x6#4
  | .subn x y => wordXYN 0x8#4 x y 0x7#4
  | .shl x y => wordXYN 0x8#4 x y 0xE#4
  | .sneReg x y => wordXYN 0x9#4 x y 0x0#4
  | .ldI nnn => wordA 0xA#4 nnn
  | .jpV0 nnn => wordA 0xB#4 nnn
  | .rnd x kk => wordXK 0xC#4 x kk
  | .drw x y n => wordXYN 0xD#4 x y n
  | .skp x => wordXK 0xE#4 x 0x9E#8
  | .sknp x => wordXK 0xE#4 x 0xA1#8
  | .ldVxDt x => wordXK 0xF#4 x 0x07#8
  | .ldVxK x => wordXK 0xF#4 x 0x0A#8
  | .ldDtVx x => wordXK 0xF#4 x 0x15#8
  | .ldStVx x => wordXK 0xF#4 x 0x18#8
  | .addI x => wordXK 0xF#4 x 0x1E#8
  | .ldF x => wordXK 0xF#4 x 0x29#8
  | .ldB x => wordXK 0xF#4 x 0x33#8
  | .ldMemVx x => wordXK 0xF#4 x 0x55#8
  | .ldVxMem x => wordXK 0xF#4 x 0x65#8

/-- The row (match, mask) of R66's table that an instruction belongs to. -/
def Instr.row : Instr → Word × Word
  | .cls => (0x00E0#16, 0xFFFF#16)
  | .ret => (0x00EE#16, 0xFFFF#16)
  | .jp _ => (0x1000#16, 0xF000#16)
  | .call _ => (0x2000#16, 0xF000#16)
  | .seByte _ _ => (0x3000#16, 0xF000#16)
  | .sneByte _ _ => (0x4000#16, 0xF000#16)
  | .seReg _ _ => (0x5000#16, 0xF00F#16)
  | .ldByte _ _ => (0x6000#16, 0xF000#16)
  | .addByte _ _ => (0x7000#16, 0xF000#16)
  | .ldReg _ _ => (0x8000#16, 0xF00F#16)
  | .orReg _ _ => (0x8001#16, 0xF00F#16)
  | .andReg _ _ => (0x8002#16, 0xF00F#16)
  | .xorReg _ _ => (0x8003#16, 0xF00F#16)
  | .addReg _ _ => (0x8004#16, 0xF00F#16)
  | .subReg _ _ => (0x8005#16, 0xF00F#16)
  | .shr _ _ => (0x8006#16, 0xF00F#16)
  | .subn _ _ => (0x8007#16, 0xF00F#16)
  | .shl _ _ => (0x800E#16, 0xF00F#16)
  | .sneReg _ _ => (0x9000#16, 0xF00F#16)
  | .ldI _ => (0xA000#16, 0xF000#16)
  | .jpV0 _ => (0xB000#16, 0xF000#16)
  | .rnd _ _ => (0xC000#16, 0xF000#16)
  | .drw _ _ _ => (0xD000#16, 0xF000#16)
  | .skp _ => (0xE09E#16, 0xF0FF#16)
  | .sknp _ => (0xE0A1#16, 0xF0FF#16)
  | .ldVxDt _ => (0xF007#16, 0xF0FF#16)
  | .ldVxK _ => (0xF00A#16, 0xF0FF#16)
  | .ldDtVx _ => (0xF015#16, 0xF0FF#16)
  | .ldStVx _ => (0xF018#16, 0xF0FF#16)
  | .addI _ => (0xF01E#16, 0xF0FF#16)
  | .ldF _ => (0xF029#16, 0xF0FF#16)
  | .ldB _ => (0xF033#16, 0xF0FF#16)
  | .ldMemVx _ => (0xF055#16, 0xF0FF#16)
  | .ldVxMem _ => (0xF065#16, 0xF0FF#16)

/-- The 34 (match, mask) rows of R66, in the table's order. -/
def opcodeRows : List (Word × Word) :=
  [Instr.cls.row, Instr.ret.row, (Instr.jp 0).row, (Instr.call 0).row, (Instr.seByte 0 0).row, (Instr.sneByte 0 0).row,
   (Instr.seReg 0 0).row, (Instr.ldByte 0 0).row, (Instr.addByte 0 0).row, (Instr.ldReg 0 0).row, (Instr.orReg 0 0).row,
   (Instr.andReg 0 0).row, (Instr.xorReg 0 0).row, (Instr.addReg 0 0).row, (Instr.subReg 0 0).row, (Instr.shr 0 0).row,
   (Instr.subn 0 0).row, (Instr.shl 0 0).row, (Instr.sneReg 0 0).row, (Instr.ldI 0).row, (Instr.jpV0 0).row,
   (Instr.rnd 0 0).row, (Instr.drw 0 0 0).row, (Instr.skp 0).row, (Instr.sknp 0).row, (Instr.ldVxDt 0).row,
   (Instr.ldVxK 0).row, (Instr.ldDtVx 0).row, (Instr.ldStVx 0).row, (Instr.addI 0).row, (Instr.ldF 0).row,
   (Instr.ldB 0).row, (Instr.ldMemVx 0).row, (Instr.ldVxMem 0).row]

/-- The word matches a row: `W & mask = match` (R66). -/
def matchesRow (w : Word) (row : Word × Word) : Bool := decide (w &&& row.2 = row.1)

/-- The instruction the decoder reads from an instruction whose bits are `w`, numbered as spec/opcode_table.json numbers them:
every instruction is one 16-bit word (R60), stored with its high byte first (R41). -/
def decodeTableWord (nbits w : Nat) : Option Instr :=
  let word : Word := BitVec.ofNat 16 (w % 2 ^ nbits)
  (decodeBytes (highByte word) (lowByte word)).toOption

end Sys2Proof
end

