-- ==== Sys2Proof/Config.lean ====
section
/-! DEFINITION. The configuration straps of R6, the turns of the four agents (R52), and the values the spec leaves open,
each a constant without a body that no proof can see through. -/

namespace Sys2Proof

/-- The instruction-set variant strap (R6): selects between two meanings of 8xy6, 8xyE, Fx55 and Fx65 only (R2). -/
inductive Variant where
  | chip8
  | schip8
  deriving DecidableEq, Repr, Inhabited

/-- The draw edge policy strap (R6): what the blit does past the right and bottom edges (R133, R134). -/
inductive DrawPolicy where
  | wrap
  | clip
  deriving DecidableEq, Repr, Inhabited

/-- The configuration straps (R6), fixed at construction and never changed. `FADING = off` is `fadeMax = 0` (R6, D9). -/
structure Straps where
  variant : Variant
  drawPolicy : DrawPolicy
  fadeMax : Nat
  deriving DecidableEq, Repr, Inhabited

/-- One step offered to an agent (R52, R180): an instruction or key-wait completion of the CPU, a tick of either timer
engine, or an event of the environment. -/
inductive Turn where
  | cpu
  | delayTick
  | soundTick
  | press (k : KeyCode)
  | release (k : KeyCode)
  | frame
  | stop
  deriving DecidableEq, Repr, Inhabited

namespace Config

/-- DESIGN CHOICE (log 1), safe: the straps of the machine that `State.reset` describes; the spec gives no default (D23). -/
opaque straps : Straps

/-- DESIGN CHOICE (log 3), safe: `STACK_INIT`, what each call-stack entry holds at reset (R29, D6). -/
opaque stackInit : Nat → Word

/-- DESIGN CHOICE (log 13), safe: the random source, one fresh byte per executed RND, under no law (R112, D13). -/
opaque draw8 : Nat → Byte

/-- DESIGN CHOICE (log 15), safe: the agent that takes the next step where `State.turns` prescribes none (R52, D18). -/
opaque turn : Nat → Turn

end Config

end Sys2Proof
end

