-- ==== Sys2Proof/Machine/State.lean ====
section
/-! DEFINITION. The state of the machine (R10 to R28), the reasons a step can stop, and the state after reset (R29). -/

namespace Sys2Proof.Machine

/-- One pixel (R19): its status and its fade level. -/
structure Pixel where
  on : Bool
  fade : Nat
  deriving DecidableEq, Repr, Inhabited

/-- The display, 32 rows of 64 pixels, row 0 and column 0 first (R19). -/
abbrev Display := Vector (Vector Pixel 64) 32

/-- The memory MEM (R17): (address, byte) cells, addresses strictly rising and below 4096, no cell equal to what an unlisted
address reads as (Machine/Font.lean, Machine/Ops.lean). -/
abbrev Memory := List Host.Cell

/-- The hidden state CPU_MODE (R26). -/
inductive CpuMode where
  /-- The CPU fetches and executes. -/
  | run
  /-- The CPU is suspended inside LD Vx,K. -/
  | waitKey
  deriving DecidableEq, Repr

/-- Everything the spec gives the machine (R10 to R27), and the model's own three fields, the last ones. -/
structure State where
  /-- V0 to VF (R10); VF is the flag register (R11). -/
  v : Vector Byte 16
  /-- The index register I (R12). -/
  i : Word
  /-- The program counter (R13). -/
  pc : Word
  /-- The stack pointer (R15). -/
  sp : Byte
  /-- The call stack (R16). -/
  stack : Vector Word 16
  /-- The memory (R17). -/
  mem : Memory
  /-- The display (R19). -/
  pix : Display
  /-- The delay timer (R21). -/
  dt : Byte
  /-- The sound timer (R21). -/
  st : Byte
  /-- KEYS, true = pressed (R24). -/
  keys : Vector Bool 16
  /-- LAST_KEY: no key, or a key code (R24). -/
  lastKey : Option KeyCode
  /-- The run flag RUNNING (R25). -/
  running : Bool
  /-- CPU_MODE (R26). -/
  cpuMode : CpuMode
  /-- VARIANT, DRAW_POLICY, FADING and FADE_MAX (R6, R27); no step changes them. -/
  straps : Straps
  /-- The model's own: how many bytes the random source has given (log 13). -/
  draws : Nat
  /-- The model's own: the agents' steps to come, first one first (log 15). -/
  turns : List Turn
  /-- The model's own: how many turns have been taken from `Config.turn` (log 15). -/
  turnsDrawn : Nat
  deriving DecidableEq, Repr

/-- Why a step gives no next state. The instruction set has no fault at all (R170). -/
inductive Fault where
  /-- Raised by `step` alone, when RUNNING is false: after the `stop` event no agent has a step (R176). Safe: the machine goes
  no further (log 17). -/
  | runEnded
  deriving DecidableEq, Repr

/-- Why an instruction has no meaning. -/
inductive Refusal where
  /-- Raised by a refused arm of `exec` for an instruction without a meaning: no arm of this model is one. Safe. -/
  | notModelled (mnemonic : String)
  deriving DecidableEq, Repr

/-- A pixel of a blank grid (R29, R130): off, fade 0. -/
def blankPixel : Pixel := { on := false, fade := 0 }

/-- The blank grid (R29, R130). -/
def blankDisplay : Display := Vector.replicate 32 (Vector.replicate 64 blankPixel)

/-- The state after reset (R29, R190, R191), before a program is loaded: PC = 0x0200, RUNNING true, CPU_MODE Run, display blank.
The zeros of V, I, SP, DT, ST, KEYS and LAST_KEY are the spec's own decision D5 (log 4); the straps and the stack entries are
free values (log 1, log 3); memory lists nothing (log 2). -/
def State.reset : State where
  v := Vector.replicate 16 0x00#8
  i := 0x0000#16
  pc := 0x0200#16
  sp := 0x00#8
  stack := Vector.ofFn fun j => Config.stackInit j.val
  mem := []
  pix := blankDisplay
  dt := 0x00#8
  st := 0x00#8
  keys := Vector.replicate 16 false
  lastKey := none
  running := true
  cpuMode := .run
  straps := Config.straps
  draws := 0
  turns := []
  turnsDrawn := 0

end Sys2Proof.Machine
end

