-- ==== Sys2Proof/Machine/Font.lean ====
section
/-! DEFINITION. The built-in glyph table (R18) and what an address that memory does not list reads as (R29). -/

namespace Sys2Proof.Machine

/-- The glyph table GLYPHS (R18). PRESUMED (log 5), unsafe: the source gives glyph 0 only; the bytes of glyphs 1 to F are the
customary font that the spec supplies from general knowledge (D7). -/
def glyphs : List Byte :=
  [0xF0#8, 0x90#8, 0x90#8, 0x90#8, 0xF0#8,
   0x20#8, 0x60#8, 0x20#8, 0x20#8, 0x70#8,
   0xF0#8, 0x10#8, 0xF0#8, 0x80#8, 0xF0#8,
   0xF0#8, 0x10#8, 0xF0#8, 0x10#8, 0xF0#8] ++
  [0x90#8, 0x90#8, 0xF0#8, 0x10#8, 0x10#8,
   0xF0#8, 0x80#8, 0xF0#8, 0x10#8, 0xF0#8,
   0xF0#8, 0x80#8, 0xF0#8, 0x90#8, 0xF0#8,
   0xF0#8, 0x10#8, 0x20#8, 0x40#8, 0x40#8] ++
  [0xF0#8, 0x90#8, 0xF0#8, 0x90#8, 0xF0#8,
   0xF0#8, 0x90#8, 0xF0#8, 0x10#8, 0xF0#8,
   0xF0#8, 0x90#8, 0xF0#8, 0x90#8, 0x90#8,
   0xE0#8, 0x90#8, 0xE0#8, 0x90#8, 0xE0#8] ++
  [0xF0#8, 0x80#8, 0x80#8, 0x80#8, 0xF0#8,
   0xE0#8, 0x90#8, 0x90#8, 0x90#8, 0xE0#8,
   0xF0#8, 0x80#8, 0xF0#8, 0x80#8, 0xF0#8,
   0xF0#8, 0x80#8, 0xF0#8, 0x80#8, 0x80#8]

/-- What a byte outside the glyph table reads as while nothing has written it. DESIGN CHOICE (log 2), unsafe: the spec leaves
MEM_INIT open (R29, D6); `launch` takes it as an argument. -/
def fillByte : Byte := 0x00#8

/-- What an address that memory does not list reads as: the glyph table at 0x000 to 0x04F (R18), the fill byte elsewhere. -/
def unlistedByte (k : Nat) : Byte := glyphs.getD k fillByte

end Sys2Proof.Machine
end

