-- ==== Sys2Proof/Machine/Ops.lean ====
section
/-! DEFINITION. The named operations over registers, memory, stack and program counter, which every meaning goes through. The
hardware takes no exception and returns from none (R170, R174, R175), so no operation here does. -/

namespace Sys2Proof.Machine

/-- `V[x]` (R8, R10). -/
def State.reg (s : State) (x : RegNum) : Byte := s.v[x.toNat]

/-- `V[x] <- b` (R8, R10). -/
def State.setReg (s : State) (x : RegNum) (b : Byte) : State := { s with v := s.v.set x.toNat b }

/-- `V[0xF] <- b`: the flag register (R11). -/
def State.setFlag (s : State) (b : Byte) : State := s.setReg 0xF#4 b

/-- `I <- w` (R8, R12). -/
def State.setI (s : State) (w : Word) : State := { s with i := w }

/-- `PC <- w` (R8, R13). -/
def State.setPc (s : State) (w : Word) : State := { s with pc := w }

/-- `PC <- PC + 2`, modulo 65536 (R14). -/
def State.advance (s : State) : State := s.setPc (s.pc + 2#16)

/-- `if c then PC <- PC + 4 else PC <- PC + 2`, modulo 65536 (R14, R84). -/
def State.skipIf (s : State) (c : Bool) : State := s.setPc (s.pc + (if c then 4#16 else 2#16))

/-- The entry of the memory array that a 16-bit address reaches: the address modulo 4096 (R40, D1). -/
def memIndex (a : Word) : Nat := a.toNat % 4096

/-- The byte memory holds at an entry: the listed one, or what an unlisted address reads as. -/
def Memory.get : Memory → Nat → Byte
  | [], k => unlistedByte k
  | (j, b) :: m, k => if j = k then b else Memory.get m k

/-- The cell that holds `b` at entry `k`: none where an unlisted `k` reads as `b` already. -/
def cellFor (k : Nat) (b : Byte) : Memory := if b = unlistedByte k then [] else [(k, b)]

/-- Memory with `b` at entry `k`, in canonical form. -/
def Memory.put : Memory → Nat → Byte → Memory
  | [], k, b => cellFor k b
  | (j, c) :: m, k, b =>
    if j < k then (j, c) :: Memory.put m k b
    else if j = k then cellFor k b ++ m
    else cellFor k b ++ (j, c) :: m

/-- The canonical form from entry `lo` on: addresses strictly rising, at least `lo`, below 4096, no cell redundant. -/
def Memory.wfFrom : Nat → Memory → Bool
  | _, [] => true
  | lo, (k, b) :: m => decide (lo ≤ k) && decide (k < 4096) && decide (b ≠ unlistedByte k) && Memory.wfFrom (k + 1) m

/-- The canonical form of memory. -/
def Memory.wf (m : Memory) : Bool := Memory.wfFrom 0 m

/-- `MemRead(a, 1)` (R8, R40). -/
def State.readByte (s : State) (a : Word) : Byte := Memory.get s.mem (memIndex a)

/-- `MemWrite(a, 1, b)` (R8, R40); no address is protected (R44). -/
def State.writeByte (s : State) (a : Word) (b : Byte) : State := { s with mem := Memory.put s.mem (memIndex a) b }

/-- `MemRead(PC, 2)`: the fetch, the byte at PC more significant (R41), at any PC (R43). -/
def State.fetchWord (s : State) : Word := wordOfBytes (s.readByte s.pc) (s.readByte (s.pc + 1#16))

/-- The call-stack entry an SP value selects: SP modulo 16 (R16, D2). -/
def stackIndex (sp : Byte) : Fin 16 := ⟨sp.toNat % 16, Nat.mod_lt _ (by decide)⟩

/-- `SP <- SP + 1; STACK[SP mod 16] <- w` (R83). -/
def State.push (s : State) (w : Word) : State :=
  { s with sp := s.sp + 1#8, stack := s.stack.set (stackIndex (s.sp + 1#8)) w }

/-- `STACK[SP mod 16]`, the entry RET reads (R81). -/
def State.top (s : State) : Word := s.stack[stackIndex s.sp]

/-- `SP <- SP - 1`; the entry itself stays (R81). -/
def State.drop (s : State) : State := { s with sp := s.sp - 1#8 }

/-- `DT <- b` (R154). -/
def State.setDt (s : State) (b : Byte) : State := { s with dt := b }

/-- `ST <- b` (R155). -/
def State.setSt (s : State) (b : Byte) : State := { s with st := b }

/-- The display replaced as a whole, in one guarded operation (R53). -/
def State.setPix (s : State) (d : Display) : State := { s with pix := d }

/-- LAST_KEY (R24) replaced. -/
def State.setLastKey (s : State) (k : Option KeyCode) : State := { s with lastKey := k }

/-- CPU_MODE (R26) replaced. -/
def State.setMode (s : State) (m : CpuMode) : State := { s with cpuMode := m }

/-- `Pix[r][c]` (R8, R19). -/
def State.pixel (s : State) (r : Fin 32) (c : Fin 64) : Pixel := s.pix[r][c]

/-- The random byte that the next RND draws is used up (R112). -/
def State.countDraw (s : State) : State := { s with draws := s.draws + 1 }

end Sys2Proof.Machine
end

