-- ==== Sys2Proof/Machine/Flags.lean ====
section
/-! DEFINITION. The values that the six flag-defining instructions write to VF (R11), and the order of their two writes (R113). -/

namespace Sys2Proof.Machine

/-- A flag is written as 0x00 or 0x01, never another value (R11). -/
def flagByte (c : Bool) : Byte := if c then 0x01#8 else 0x00#8

/-- The carry of 8xy4 as the rule computes it: the wrapped sum is less than `b` (R106). -/
def carryOut (a b : Byte) : Byte := flagByte (decide ((a + b).toNat < b.toNat))

/-- The absence of a borrow in `a - b` (R107, R109, R114). -/
def noBorrow (a b : Byte) : Byte := flagByte (decide (b.toNat ≤ a.toNat))

/-- The bit SHR shifts out (R108). -/
def lowBit (s : Byte) : Byte := flagByte (s.getLsbD 0)

/-- The bit SHL shifts out (R110). -/
def topBit (s : Byte) : Byte := flagByte (s.getLsbD 7)

/-- VF first and Vx second: with x = F the result remains (R113, for 8xy4, 8xy5, 8xy7). -/
def State.flagThenReg (s : State) (flag : Byte) (x : RegNum) (result : Byte) : State := (s.setFlag flag).setReg x result

/-- Vx first and VF second: with x = F the flag remains (R113, for 8xy6, 8xyE). -/
def State.regThenFlag (s : State) (x : RegNum) (result : Byte) (flag : Byte) : State := (s.setReg x result).setFlag flag

end Sys2Proof.Machine
end

