-- ==== Sys2Proof/Machine/Operands.lean ====
section
/-! DEFINITION. The operand forms (R63, R126): what an instruction computes from its fields and registers before it writes. -/

namespace Sys2Proof.Machine

/-- `zext_16` of a register byte (R63). -/
def zextByte (b : Byte) : Word := b.setWidth 16

/-- `zext_16(nnn)` (R63). -/
def zextAddr (nnn : Addr) : Word := nnn.setWidth 16

/-- The effective address of byte `k` of an access: `(I + k) mod 65536` (R126). -/
def State.effAddr (s : State) (k : Nat) : Word := s.i + BitVec.ofNat 16 k

/-- The source of a shift: Vy under `chip8`, Vx under `schip8` (R108, R110). -/
def State.shiftSource (s : State) (x y : RegNum) : Byte :=
  match s.straps.variant with
  | .chip8 => s.reg y
  | .schip8 => s.reg x

/-- The start column of a sprite: `V[x] mod 64`, under both draw policies (R131). -/
def State.spriteCol (s : State) (x : RegNum) : Nat := (s.reg x).toNat % 64

/-- The start row of a sprite: `V[y] mod 32`, under both draw policies (R131). -/
def State.spriteRow (s : State) (y : RegNum) : Nat := (s.reg y).toNat % 32

/-- The `n` sprite bytes at I, I + 1, ... (R131). -/
def State.spriteBytes (s : State) (n : RowCount) : List Byte :=
  (List.range n.toNat).map fun row => s.readByte (s.effAddr row)

/-- Whether the value names a pressed key: `a <= 0x0F and KEYS[a] = 1`, without masking (R150, D11). -/
def State.keyPressed (s : State) (a : Byte) : Bool := if h : a.toNat < 16 then s.keys[a.toNat] else false

/-- The address of the glyph of a digit: the whole byte times 5, without masking (R122, D20). -/
def glyphAddress (a : Byte) : Word := zextByte a * 5#16

/-- The hundreds digit of a byte (R123). -/
def hundreds (a : Byte) : Byte := BitVec.ofNat 8 (a.toNat / 100)

/-- The tens digit of a byte (R123). -/
def tens (a : Byte) : Byte := BitVec.ofNat 8 (a.toNat / 10 % 10)

/-- The ones digit of a byte (R123). -/
def ones (a : Byte) : Byte := BitVec.ofNat 8 (a.toNat % 10)

/-- The registers V0 to Vx, as numbers in rising order (R124, R125). -/
def regsUpTo (x : RegNum) : List Nat := List.range (x.toNat + 1)

/-- Where I stands after Fx55 and Fx65: moved on by x + 1 under `chip8`, unchanged under `schip8` (R124, R125). -/
def State.cursorAfter (s : State) (x : RegNum) : Word :=
  match s.straps.variant with
  | .chip8 => s.effAddr (x.toNat + 1)
  | .schip8 => s.i

end Sys2Proof.Machine
end

