-- ==== Sys2Proof/Machine/Alu.lean ====
section
/-! DEFINITION. Register load, arithmetic, logic, shift and random instructions (41_alu.md). Each reads its sources from the
state before it, so operands are latched (R113), and each ends with PC + 2. -/

namespace Sys2Proof.Machine

open Host (Outcome)

/-- LD Vx,kk (R100). -/
def execLdByte (x : RegNum) (kk : Byte) (s : State) : Outcome State Fault Refusal := .next (s.setReg x kk).advance

/-- ADD Vx,kk (R101): wraps, writes no flag. -/
def execAddByte (x : RegNum) (kk : Byte) (s : State) : Outcome State Fault Refusal :=
  .next (s.setReg x (s.reg x + kk)).advance

/-- LD Vx,Vy (R102). -/
def execLdReg (x y : RegNum) (s : State) : Outcome State Fault Refusal := .next (s.setReg x (s.reg y)).advance

/-- OR Vx,Vy (R103): writes no flag. -/
def execOrReg (x y : RegNum) (s : State) : Outcome State Fault Refusal :=
  .next (s.setReg x (s.reg x ||| s.reg y)).advance

/-- AND Vx,Vy (R104): writes no flag. -/
def execAndReg (x y : RegNum) (s : State) : Outcome State Fault Refusal :=
  .next (s.setReg x (s.reg x &&& s.reg y)).advance

/-- XOR Vx,Vy (R105): writes no flag. -/
def execXorReg (x y : RegNum) (s : State) : Outcome State Fault Refusal :=
  .next (s.setReg x (s.reg x ^^^ s.reg y)).advance

/-- ADD Vx,Vy (R106): VF is the carry, written first (R113). -/
def execAddReg (x y : RegNum) (s : State) : Outcome State Fault Refusal :=
  .next (s.flagThenReg (carryOut (s.reg x) (s.reg y)) x (s.reg x + s.reg y)).advance

/-- SUB Vx,Vy (R107): VF is the absence of a borrow, written first (R113). -/
def execSubReg (x y : RegNum) (s : State) : Outcome State Fault Refusal :=
  .next (s.flagThenReg (noBorrow (s.reg x) (s.reg y)) x (s.reg x - s.reg y)).advance

/-- SHR Vx,Vy (R108): VF is the bit shifted out, written last (R113). -/
def execShr (x y : RegNum) (s : State) : Outcome State Fault Refusal :=
  .next (s.regThenFlag x (s.shiftSource x y >>> 1) (lowBit (s.shiftSource x y))).advance

/-- SUBN Vx,Vy (R109): VF is the absence of a borrow in Vy - Vx, written first (R113). -/
def execSubn (x y : RegNum) (s : State) : Outcome State Fault Refusal :=
  .next (s.flagThenReg (noBorrow (s.reg y) (s.reg x)) x (s.reg y - s.reg x)).advance

/-- SHL Vx,Vy (R110): VF is the bit shifted out, written last (R113). -/
def execShl (x y : RegNum) (s : State) : Outcome State Fault Refusal :=
  .next (s.regThenFlag x (s.shiftSource x y <<< 1) (topBit (s.shiftSource x y))).advance

/-- RND Vx,kk with the drawn byte given (R111). -/
def rndWith (r : Byte) (x : RegNum) (kk : Byte) (s : State) : State := (s.countDraw.setReg x (r &&& kk)).advance

/-- RND Vx,kk (R111): the drawn byte is the free value `Config.draw8`, fresh at each execution (R112, D13). -/
def execRnd (x : RegNum) (kk : Byte) (s : State) : Outcome State Fault Refusal :=
  .next (rndWith (Config.draw8 s.draws) x kk s)

end Sys2Proof.Machine
end

