-- ==== Sys2Proof/Machine/Display.lean ====
section
/-! DEFINITION. The sprite compositor, CLS, DRW, decay and the snapshot port (43_display.md). -/

namespace Sys2Proof.Machine

open Host (Outcome)

/-- A pixel that receives a sprite bit 1 (R132, R137): on to off sets the fade to the maximum, off to on sets it to 0. -/
def togglePixel (fadeMax : Nat) (p : Pixel) : Pixel :=
  if p.on then { on := false, fade := fadeMax } else { on := true, fade := 0 }

/-- The row a sprite row lands on (R132): wrapped modulo 32 (R133) or not drawn (R134). -/
def edgeRow (policy : DrawPolicy) (r : Nat) : Option (Fin 32) :=
  if h : r < 32 then some ⟨r, h⟩
  else match policy with
    | .wrap => some ⟨r % 32, Nat.mod_lt _ (by decide)⟩
    | .clip => none

/-- The column a sprite bit lands on (R132): wrapped modulo 64 (R133) or not drawn (R134). -/
def edgeCol (policy : DrawPolicy) (c : Nat) : Option (Fin 64) :=
  if h : c < 64 then some ⟨c, h⟩
  else match policy with
    | .wrap => some ⟨c % 64, Nat.mod_lt _ (by decide)⟩
    | .clip => none

/-- The bit of a sprite byte at sprite column `col`: bit 7 - col. PRESUMED (log 6), unsafe: the most significant bit leftmost is
general knowledge in the spec (R135, D8). -/
def spriteBit (b : Byte) (col : Nat) : Bool := b.getLsbD (7 - col)

/-- The display with one pixel replaced. -/
def Display.setPixel (d : Display) (r : Fin 32) (c : Fin 64) (p : Pixel) : Display := d.set r (d[r].set c p)

/-- A display under a blit, and whether a pixel has gone from on to off so far (R132, R136). -/
structure Blit where
  pix : Display
  collided : Bool
  deriving DecidableEq, Repr

/-- A sprite bit 1 at a pixel (R132). -/
def Blit.plot (fadeMax : Nat) (r : Fin 32) (c : Fin 64) (b : Blit) : Blit where
  pix := Display.setPixel b.pix r c (togglePixel fadeMax b.pix[r][c])
  collided := b.collided || b.pix[r][c].on

/-- One bit of a sprite row on display row `r` (R132): a 0 bit, or one clipped away, leaves everything as it is. -/
def Blit.bit (straps : Straps) (byte : Byte) (x0 : Nat) (r : Fin 32) (b : Blit) (col : Nat) : Blit :=
  match edgeCol straps.drawPolicy (x0 + col) with
  | some c => if spriteBit byte col then b.plot straps.fadeMax r c else b
  | none => b

/-- One sprite row, `row` rows below the start (R132). -/
def Blit.line (straps : Straps) (x0 y0 : Nat) (b : Blit) (row : Nat) (byte : Byte) : Blit :=
  match edgeRow straps.drawPolicy (y0 + row) with
  | some r => (List.range 8).foldl (Blit.bit straps byte x0 r) b
  | none => b

/-- The sprite rows from row number `row` on (R132). -/
def Blit.lines (straps : Straps) (x0 y0 : Nat) : List Byte → Nat → Blit → Blit
  | [], _, b => b
  | byte :: rest, row, b => Blit.lines straps x0 y0 rest (row + 1) (Blit.line straps x0 y0 b row byte)

/-- `Blit(sprite, x0, y0)` (R132). -/
def blit (straps : Straps) (d : Display) (sprite : List Byte) (x0 y0 : Nat) : Blit :=
  Blit.lines straps x0 y0 sprite 0 { pix := d, collided := false }

/-- CLS (R130): a blank grid; that its fade levels are 0 is the spec's decision D9. -/
def execCls (s : State) : Outcome State Fault Refusal := .next (s.setPix blankDisplay).advance

/-- The blit of a DRW, its coordinates and sprite bytes latched before anything is written (R131). -/
def State.drwBlit (s : State) (x y : RegNum) (n : RowCount) : Blit :=
  blit s.straps s.pix (s.spriteBytes n) (s.spriteCol x) (s.spriteRow y)

/-- DRW Vx,Vy,n (R131): VF is the collision, written last. -/
def execDrw (x y : RegNum) (n : RowCount) (s : State) : Outcome State Fault Refusal :=
  .next ((s.setPix (s.drwBlit x y n).pix).setFlag (flagByte (s.drwBlit x y n).collided)).advance

/-- Decay of one pixel (R141): an off pixel's fade goes down by one, floored at zero. -/
def decayPixel (p : Pixel) : Pixel := if p.on then p else { p with fade := p.fade - 1 }

/-- `decay()` (R141): every pixel decayed once. -/
def decay (d : Display) : Display := Vector.ofFn fun r => Vector.ofFn fun c => decayPixel d[r][c]

/-- The `frame` event (R141): a snapshot, which changes nothing, then one decay of the whole grid. -/
def State.frame (s : State) : State := s.setPix (decay s.pix)

/-- The snapshot port (R140): every pixel's status and fade level, as it is between two steps. -/
def State.snapshot (s : State) : Display := s.pix

end Sys2Proof.Machine
end

