-- ==== Sys2Proof/Machine/Flow.lean ====
section
/-! DEFINITION. The control-flow instructions and the no-operation of an unrecognised word (40_flow.md). -/

namespace Sys2Proof.Machine

open Host (Outcome)

/-- RET (R81). -/
def execRet (s : State) : Outcome State Fault Refusal := .next (s.drop.setPc s.top)

/-- JP nnn (R82). -/
def execJp (nnn : Addr) (s : State) : Outcome State Fault Refusal := .next (s.setPc (zextAddr nnn))

/-- CALL nnn (R83); what is pushed is the address of the instruction after the CALL (D3). -/
def execCall (nnn : Addr) (s : State) : Outcome State Fault Refusal :=
  .next ((s.push (s.pc + 2#16)).setPc (zextAddr nnn))

/-- SE Vx,kk (R84). -/
def execSeByte (x : RegNum) (kk : Byte) (s : State) : Outcome State Fault Refusal :=
  .next (s.skipIf (decide (s.reg x = kk)))

/-- SNE Vx,kk (R85). -/
def execSneByte (x : RegNum) (kk : Byte) (s : State) : Outcome State Fault Refusal :=
  .next (s.skipIf (decide (s.reg x ≠ kk)))

/-- SE Vx,Vy (R86). -/
def execSeReg (x y : RegNum) (s : State) : Outcome State Fault Refusal :=
  .next (s.skipIf (decide (s.reg x = s.reg y)))

/-- SNE Vx,Vy (R87). -/
def execSneReg (x y : RegNum) (s : State) : Outcome State Fault Refusal :=
  .next (s.skipIf (decide (s.reg x ≠ s.reg y)))

/-- JP V0,nnn (R88); under both variants the register is V0. -/
def execJpV0 (nnn : Addr) (s : State) : Outcome State Fault Refusal :=
  .next (s.setPc (zextByte (s.reg 0x0#4) + zextAddr nnn))

/-- The no-operation of an unrecognised word (R89): it is no constructor of `Instr`, `cpuStep` runs it. -/
def execUnrecognised (s : State) : Outcome State Fault Refusal := .next s.advance

end Sys2Proof.Machine
end

