-- ==== Sys2Proof/Machine/IndexMemory.lean ====
section
/-! DEFINITION. Index-register and memory instructions (42_index_memory.md). None writes VF as a flag; each ends with PC + 2. -/

namespace Sys2Proof.Machine

open Host (Outcome)

/-- LD I,nnn (R120). -/
def execLdI (nnn : Addr) (s : State) : Outcome State Fault Refusal := .next (s.setI (zextAddr nnn)).advance

/-- ADD I,Vx (R121): 16-bit wrap, VF not written. -/
def execAddI (x : RegNum) (s : State) : Outcome State Fault Refusal :=
  .next (s.setI (s.i + zextByte (s.reg x))).advance

/-- LD F,Vx (R122). -/
def execLdF (x : RegNum) (s : State) : Outcome State Fault Refusal :=
  .next (s.setI (glyphAddress (s.reg x))).advance

/-- LD B,Vx (R123): hundreds, tens, ones at I, I + 1, I + 2; I is unchanged. -/
def execLdB (x : RegNum) (s : State) : Outcome State Fault Refusal :=
  .next (((s.writeByte (s.effAddr 0) (hundreds (s.reg x))).writeByte (s.effAddr 1) (tens (s.reg x))).writeByte
    (s.effAddr 2) (ones (s.reg x))).advance

/-- Registers `rs` stored at I plus their number, each in turn (R124). -/
def State.storeRegs (s : State) (rs : List Nat) : State :=
  rs.foldl (fun t r => t.writeByte (s.effAddr r) (s.reg (BitVec.ofNat 4 r))) s

/-- Registers `rs` loaded from I plus their number, each in turn (R125). -/
def State.loadRegs (s : State) (rs : List Nat) : State :=
  rs.foldl (fun t r => t.setReg (BitVec.ofNat 4 r) (s.readByte (s.effAddr r))) s

/-- LD [I],Vx (R124): V0 to Vx to memory, V0 at the lowest address; I as the variant says. -/
def execLdMemVx (x : RegNum) (s : State) : Outcome State Fault Refusal :=
  .next ((s.storeRegs (regsUpTo x)).setI (s.cursorAfter x)).advance

/-- LD Vx,[I] (R125): V0 to Vx from memory; I as the variant says. -/
def execLdVxMem (x : RegNum) (s : State) : Outcome State Fault Refusal :=
  .next ((s.loadRegs (regsUpTo x)).setI (s.cursorAfter x)).advance

end Sys2Proof.Machine
end

