-- ==== Sys2Proof/Machine/Keys.lean ====
section
/-! DEFINITION. The keypad instructions and the key events (44_keys_timers.md). -/

namespace Sys2Proof.Machine

open Host (Outcome)

/-- SKP Vx (R150). -/
def execSkp (x : RegNum) (s : State) : Outcome State Fault Refusal := .next (s.skipIf (s.keyPressed (s.reg x)))

/-- SKNP Vx (R151), the exact complement of SKP. -/
def execSknp (x : RegNum) (s : State) : Outcome State Fault Refusal := .next (s.skipIf (!s.keyPressed (s.reg x)))

/-- LD Vx,K, the entry step (R152): LAST_KEY is cleared and the CPU waits; PC still addresses this word, whose `x` field the
completion reads again, so `x` is not stored (R26). -/
def execLdVxK (_x : RegNum) (s : State) : Outcome State Fault Refusal := .next ((s.setLastKey none).setMode .waitKey)

/-- LD Vx,K, the completion step with key `k` (R152). -/
def State.completeKeyWait (s : State) (k : KeyCode) : State :=
  ((s.setReg (fieldX s.fetchWord) (k.setWidth 8)).setMode .run).advance

/-- The `press(k)` event (R156). -/
def State.press (s : State) (k : KeyCode) : State := { s with keys := s.keys.set k.toNat true, lastKey := some k }

/-- The `release(k)` event (R157); LAST_KEY is not changed. -/
def State.release (s : State) (k : KeyCode) : State := { s with keys := s.keys.set k.toNat false }

end Sys2Proof.Machine
end

