-- ==== Sys2Proof/Machine/Timers.lean ====
section
/-! DEFINITION. The timer instructions, the two engines' ticks and the tone output (44_keys_timers.md). -/

namespace Sys2Proof.Machine

open Host (Outcome)

/-- LD Vx,DT (R153). -/
def execLdVxDt (x : RegNum) (s : State) : Outcome State Fault Refusal := .next (s.setReg x s.dt).advance

/-- LD DT,Vx (R154). -/
def execLdDtVx (x : RegNum) (s : State) : Outcome State Fault Refusal := .next (s.setDt (s.reg x)).advance

/-- LD ST,Vx (R155). -/
def execLdStVx (x : RegNum) (s : State) : Outcome State Fault Refusal := .next (s.setSt (s.reg x)).advance

/-- The delay engine is Running exactly when DT is nonzero (R22). -/
def State.delayRunning (s : State) : Bool := decide (s.dt ≠ 0x00#8)

/-- The sound engine is Running exactly when ST is nonzero (R22). -/
def State.soundRunning (s : State) : Bool := decide (s.st ≠ 0x00#8)

/-- A turn of the delay engine (R160): one tick, or no step while it is Idle. -/
def State.delayTick (s : State) : State := if s.delayRunning then s.setDt (s.dt - 1#8) else s

/-- A turn of the sound engine (R161): one tick, or no step while it is Idle. -/
def State.soundTick (s : State) : State := if s.soundRunning then s.setSt (s.st - 1#8) else s

/-- The tone output: `TONE = (RUNNING and ST != 0)` (R23). Its edges are the two callbacks (R163). -/
def State.tone (s : State) : Bool := s.running && s.soundRunning

end Sys2Proof.Machine
end

