-- ==== Sys2Proof/Machine/Agents.lean ====
section
/-! DEFINITION. One step of each of the four agents (R52, R180): the CPU, the two timer engines and the environment. -/

namespace Sys2Proof.Machine

open Host (Outcome)

/-- What the CPU executes at PC (R80): the decoded instruction, or the no-operation of an unrecognised word (R89). -/
def executeWord (w : Word) (s : State) : Outcome State Fault Refusal :=
  match decode w with
  | .ok i => exec i s
  | .error _ => execUnrecognised s

/-- A turn of the CPU (R80, R152): one whole instruction in mode Run; in mode WaitKey the completion, once a key has been pressed,
and until then no step. -/
def cpuStep (s : State) : Outcome State Fault Refusal :=
  match s.cpuMode, s.lastKey with
  | .run, _ => executeWord s.fetchWord s
  | .waitKey, some k => .next (s.completeKeyWait k)
  | .waitKey, none => .next s

/-- The `stop` event (R176): RUNNING becomes false, for good. -/
def State.stop (s : State) : State := { s with running := false }

/-- A turn of an agent while RUNNING is true (R172, R180). -/
def runTurn (turn : Turn) (s : State) : Outcome State Fault Refusal :=
  match turn with
  | .cpu => cpuStep s
  | .delayTick => .next s.delayTick
  | .soundTick => .next s.soundTick
  | .press k => .next (s.press k)
  | .release k => .next (s.release k)
  | .frame => .next s.frame
  | .stop => .next s.stop

/-- Whose turn it is (R52): the first of `turns`, and where that is empty the free value `Config.turn`, since the hardware fixes
no order (log 15). -/
def State.nextTurn (s : State) : Turn :=
  match s.turns with
  | t :: _ => t
  | [] => Config.turn s.turnsDrawn

/-- The state with that turn taken off the model's own fields. -/
def State.afterTurn (s : State) : State :=
  match s.turns with
  | _ :: rest => { s with turns := rest }
  | [] => { s with turnsDrawn := s.turnsDrawn + 1 }

/-- The state with a turn of the CPU put before all others. -/
def State.cpuFirst (s : State) : State := { s with turns := .cpu :: s.turns }

/-- RUNNING true and CPU_MODE Run, as at the start of execution (R194). -/
def State.started (s : State) : State := { s with running := true, cpuMode := .run }

end Sys2Proof.Machine
end

