-- ==== Sys2Proof/WellFormed.lean ====
section
/-! DEFINITION. Well-formedness. The types of `Instr`'s fields carry the widths of R61, so an ill-formed instruction cannot be
built; what can be ill-formed is a raw operand number on its way into a field, and a program image on its way into the
loader (R192). Each has its check here. -/

namespace Sys2Proof

/-- A raw number as a register field (R61): refused above 0xF. -/
def regNum? (n : Nat) : Option RegNum := if n < 16 then some (BitVec.ofNat 4 n) else none

/-- A raw number as the sprite row count `n` (R61, R63): refused above 15. -/
def rowCount? (n : Nat) : Option RowCount := if n < 16 then some (BitVec.ofNat 4 n) else none

/-- A raw number as the byte immediate `kk` (R61): refused above 0xFF. -/
def byteOperand? (n : Nat) : Option Byte := if n < 256 then some (BitVec.ofNat 8 n) else none

/-- A raw number as the address immediate `nnn` (R61): refused above 0xFFF. -/
def addrOperand? (n : Nat) : Option Addr := if n < 4096 then some (BitVec.ofNat 12 n) else none

/-- The operands of an instruction, each with the number of bits its field has (R61, R62). -/
def Instr.operands : Instr → List (Nat × Nat)
  | .cls | .ret => []
  | .jp a | .call a | .ldI a | .jpV0 a => [(a.toNat, 12)]
  | .seByte x k | .sneByte x k | .ldByte x k | .addByte x k | .rnd x k => [(x.toNat, 4), (k.toNat, 8)]
  | .seReg x y | .sneReg x y | .ldReg x y | .orReg x y | .andReg x y | .xorReg x y | .addReg x y | .subReg x y
  | .shr x y | .subn x y | .shl x y => [(x.toNat, 4), (y.toNat, 4)]
  | .drw x y n => [(x.toNat, 4), (y.toNat, 4), (n.toNat, 4)]
  | .skp x | .sknp x | .ldVxDt x | .ldVxK x | .ldDtVx x | .ldStVx x | .addI x | .ldF x | .ldB x | .ldMemVx x
  | .ldVxMem x => [(x.toNat, 4)]

/-- Every operand fits its field. The types make it hold of every instruction. -/
def Instr.wellFormed (i : Instr) : Bool := i.operands.all fun o => decide (o.1 < 2 ^ o.2)

/-- The longest program the loader admits (R45, R192). -/
def maxProgramLength : Nat := 0xE00

/-- A program image the loader admits (R192): neither empty nor longer than 0xE00 bytes. -/
def wellFormedProgram (program : List Byte) : Bool :=
  decide (0 < program.length) && decide (program.length ≤ maxProgramLength)

end Sys2Proof
end

