-- ==== Sys2Proof/Machine/Boot.lean ====
section
/-! DEFINITION. Reset and launch (R190 to R194): the loader port, and the machine at its first fetch for EVERY value of the open
parameters (straps, MEM_INIT, STACK_INIT, program). `State.reset` is the machine before a load, with MEM_INIT as log 2 says. -/

namespace Sys2Proof.Machine

/-- Why the loader refuses, so that there is no run (R182, R192). -/
inductive LoadError where
  /-- A zero-length program. -/
  | zeroLength
  /-- A program longer than 0xE00 bytes; that it is refused is the spec's decision D16. -/
  | tooLong
  deriving DecidableEq, Repr

/-- The address a program is loaded at (R4, R192). -/
def loadAddr : Nat := 0x200

/-- The content of a memory entry at the first fetch (R29): the glyph table, the program from 0x200, MEM_INIT elsewhere. -/
def imageByte (memInit : Nat → Byte) (program : List Byte) (k : Nat) : Byte :=
  if k < glyphs.length then unlistedByte k
  else if k < loadAddr then memInit k
  else program.getD (k - loadAddr) (memInit k)

/-- The memory, in canonical form, whose entry k holds `f k`. -/
def Memory.ofImage (f : Nat → Byte) : Memory := (List.range 4096).flatMap fun k => cellFor k (f k)

/-- The loader's answer (R182, R192): the machine at its first fetch, or the reason there is no run. -/
def launch (straps : Straps) (memInit : Nat → Byte) (stackInit : Vector Word 16) (program : List Byte) :
    Except LoadError State :=
  if program.length = 0 then .error .zeroLength
  else if maxProgramLength < program.length then .error .tooLong
  else .ok { State.reset with
    straps := straps
    stack := stackInit
    mem := Memory.ofImage (imageByte memInit program) }

end Sys2Proof.Machine
end

