-- ==== Sys2Proof/Machine/Step.lean ====
section
/-! DEFINITION. One step of the machine (R52): one atomic step of the agent whose turn it is. After `stop` there is none (R176). -/

namespace Sys2Proof.Machine

/-- One step. -/
def step (s : State) : Host.Outcome State Fault Refusal :=
  if s.running then runTurn s.nextTurn s.afterTurn else .fault .runEnded

/-- `s` with the word stored where the CPU fetches next, the CPU running and its turn next (log 20): it stands for the loader
port (R192), which places a program before the run. Two bytes, high byte first (R41). -/
def State.withFetchWord (s : State) (nbits w : Nat) : State :=
  let word : Word := BitVec.ofNat 16 (w % 2 ^ nbits)
  (((s.writeByte s.pc (highByte word)).writeByte (s.pc + 1#16) (lowByte word)).started).cpuFirst

end Sys2Proof.Machine
end

