-- ==== Sys2Proof/Safety.lean ====
section
/-! DEFINITION. What counts as a good state and a safe step, and the words the statements use for what an instruction leaves
unchanged. -/

namespace Sys2Proof

open Sys2Proof.Machine

/-- The display invariants (R20 b, c): an on pixel has fade 0, and no fade level is above FADE_MAX. -/
def DisplayInv (s : State) : Prop :=
  ∀ r c, ((s.pixel r c).on = true → (s.pixel r c).fade = 0) ∧ (s.pixel r c).fade ≤ s.straps.fadeMax

/-- The invariant that every step keeps: memory is canonical and the display invariants hold. -/
def Inv (s : State) : Prop := Memory.wf s.mem = true ∧ DisplayInv s

/-- A step that is neither a fault nor a refusal. -/
def Completes (o : Host.Outcome State Fault Refusal) : Prop := ∃ t, o = .next t

/-- Every general register as before. -/
def SameRegs (s t : State) : Prop := ∀ r, t.reg r = s.reg r

/-- Every general register but the listed ones as before. -/
def SameRegsBut (xs : List RegNum) (s t : State) : Prop := ∀ r, r ∉ xs → t.reg r = s.reg r

/-- I as before. -/
def SameIndex (s t : State) : Prop := t.i = s.i

/-- SP and all sixteen stack entries as before. -/
def SameStack (s t : State) : Prop := t.sp = s.sp ∧ t.stack = s.stack

/-- Every byte of memory reads as before. -/
def SameMemory (s t : State) : Prop := ∀ a, t.readByte a = s.readByte a

/-- Every byte of memory outside the `n` bytes at I, I + 1, ... (the effective addresses of R126, each modulo 4096, R40) reads as
before. -/
def SameMemoryOutside (n : Nat) (s t : State) : Prop :=
  ∀ b, (∀ k < n, memIndex b ≠ memIndex (s.effAddr k)) → t.readByte b = s.readByte b

/-- Every pixel as before. -/
def SameDisplay (s t : State) : Prop := ∀ r c, t.pixel r c = s.pixel r c

/-- Both timers as before. -/
def SameTimers (s t : State) : Prop := t.dt = s.dt ∧ t.st = s.st

/-- KEYS and LAST_KEY as before. -/
def SameKeypad (s t : State) : Prop := t.keys = s.keys ∧ t.lastKey = s.lastKey

/-- RUNNING, CPU_MODE and the straps as before. -/
def SameControl (s t : State) : Prop := t.running = s.running ∧ t.cpuMode = s.cpuMode ∧ t.straps = s.straps

/-- The model's own fields as before. -/
def SameBookkeeping (s t : State) : Prop := t.draws = s.draws ∧ t.turns = s.turns ∧ t.turnsDrawn = s.turnsDrawn

/-- Everything outside the register file, I, the stack, memory and PC as before: the display, the timers, the keypad, the control
state and the model's own fields. -/
def SameDevices (s t : State) : Prop :=
  SameDisplay s t ∧ SameTimers s t ∧ SameKeypad s t ∧ SameControl s t ∧ SameBookkeeping s t

/-- Everything but the register file and PC as before: the frame of a register instruction. -/
def SameButRegs (s t : State) : Prop := SameIndex s t ∧ SameStack s t ∧ SameMemory s t ∧ SameDevices s t

/-- Everything but PC as before: the frame of a jump or a skip. -/
def SameButPc (s t : State) : Prop := SameRegs s t ∧ SameButRegs s t

/-- Two states that agree on everything but fade levels (R138). -/
def AgreeButFade (s t : State) : Prop :=
  t = { s with pix := t.pix } ∧ ∀ r c, (t.pixel r c).on = (s.pixel r c).on

/-- Two outcomes of the same kind, their next states agreeing on everything but fade levels. -/
def OutcomesAgreeButFade : Host.Outcome State Fault Refusal → Host.Outcome State Fault Refusal → Prop
  | .next s, .next t => AgreeButFade s t
  | .fault f, .fault g => f = g
  | .refused f, .refused g => f = g
  | _, _ => False

/-- Whether the draw policy lets a sprite that starts at row `y0` and column `x0` reach pixel (r, c): always under wrap (R133), only
at and after the start under clip (R134). -/
def inReach (policy : DrawPolicy) (x0 y0 : Nat) (r : Fin 32) (c : Fin 64) : Bool :=
  match policy with
  | .wrap => true
  | .clip => decide (y0 ≤ r.val) && decide (x0 ≤ c.val)

/-- Whether a sprite bit 1 of a DRW lands on pixel (r, c) (R132 to R135), said from the pixel's side: the sprite row and column
that reach it, modulo the grid's sides, none where the policy clips it away. -/
def spriteCovers (s : State) (x y : RegNum) (n : RowCount) (r : Fin 32) (c : Fin 64) : Bool :=
  inReach s.straps.drawPolicy (s.spriteCol x) (s.spriteRow y) r c &&
    decide ((r.val + 32 - s.spriteRow y) % 32 < n.toNat) && decide ((c.val + 64 - s.spriteCol x) % 64 < 8) &&
    (s.readByte (s.effAddr ((r.val + 32 - s.spriteRow y) % 32))).getLsbD (7 - (c.val + 64 - s.spriteCol x) % 64)

/-- The instruction a CPU turn executes, where one does: RUNNING, the CPU's turn, mode Run, and a word of the 34 at PC. -/
def executing (s : State) : Option Instr :=
  if s.running = true ∧ s.nextTurn = .cpu ∧ s.cpuMode = .run then (decode s.fetchWord).toOption else none

/-- What a step does to the status of pixel (r, c) (R20 a): CLS clears it, DRW XORs the sprite bit drawn there, every other step
of every agent leaves it. -/
def litAfter (s : State) (r : Fin 32) (c : Fin 64) : Bool :=
  match executing s with
  | some .cls => false
  | some (.drw x y n) => (s.pixel r c).on ^^ spriteCovers s x y n r c
  | _ => (s.pixel r c).on

/-- The six flag-defining instructions (R11). -/
def definesFlag : Instr → Bool
  | .addReg _ _ | .subReg _ _ | .shr _ _ | .subn _ _ | .shl _ _ | .drw _ _ _ => true
  | _ => false

/-- The registers an instruction names as its destination (R10's table): Vx, or V0 to Vx for Fx65; the flag is apart. -/
def destinations : Instr → List RegNum
  | .ldByte x _ | .addByte x _ | .rnd x _ => [x]
  | .ldReg x _ | .orReg x _ | .andReg x _ | .xorReg x _ | .addReg x _ | .subReg x _ | .shr x _ | .subn x _ | .shl x _ => [x]
  | .ldVxDt x => [x]
  | .ldVxMem x => (regsUpTo x).map (BitVec.ofNat 4)
  | _ => []

/-- Instructions executed one after the other, each from the state the one before it left (R50). -/
def execAll : List Instr → State → Host.Outcome State Fault Refusal
  | [], s => .next s
  | i :: rest, s =>
    match exec i s with
    | .next t => execAll rest t
    | .fault f => .fault f
    | .refused r => .refused r

end Sys2Proof
end

