-- ==== Sys2Proof/Certificates/Slice0/Obligations.lean ====
section
/-! DEFINITION. The statements for the provers. Each docstring names the rule of spec/ it formalises, and where it rests on a
decision of the spec (92_eei_decisions.md) or on an entry of the log, says so. -/

open Sys2Proof Sys2Proof.Machine

/-! ### Encoding and decoding -/

/-- R61, R62, R66: decoding the word of a well-formed instruction gives the instruction, with every operand at every value its
field admits. -/
def Obligations.DecodeOfEncodeIsIdentity : Prop :=
  ∀ i : Instr, i.wellFormed = true → decode (encode i) = .ok i

/-- R60, R61: a word that decodes to an instruction is that instruction's only word, so decoding drops no bit of it. -/
def Obligations.EncodeOfDecodeIsIdentity : Prop :=
  ∀ (w : Word) (i : Instr), decode w = .ok i → encode i = w

/-- R66: a word is the instruction of a row exactly when `W & mask = match`. -/
def Obligations.DecoderFollowsTheOpcodeTable : Prop :=
  ∀ w : Word,
    (∀ i, decode w = .ok i → matchesRow w i.row = true) ∧
    (∀ row ∈ opcodeRows, matchesRow w row = true → ∃ i, decode w = .ok i ∧ i.row = row)

/-- R66: no word matches two rows of the table. -/
def Obligations.OpcodeRowsDoNotOverlap : Prop :=
  opcodeRows.length = 34 ∧ ∀ w : Word, (opcodeRows.filter (matchesRow w)).length ≤ 1

/-- R68 (with the spec's decision D10 for families 0, 5 and 9): the unrecognised words are exactly those of the table, family
by family. -/
def Obligations.UnrecognisedWordsAreThoseOfTheTable : Prop :=
  ∀ w : Word,
    (decode w = .error .family0 ↔ fieldOp w = 0x0#4 ∧ w ≠ 0x00E0#16 ∧ w ≠ 0x00EE#16) ∧
    (decode w = .error .family5 ↔ fieldOp w = 0x5#4 ∧ fieldN w ≠ 0x0#4) ∧
    (decode w = .error .family8 ↔
      fieldOp w = 0x8#4 ∧ fieldN w ∈ [0x8#4, 0x9#4, 0xA#4, 0xB#4, 0xC#4, 0xD#4, 0xF#4]) ∧
    (decode w = .error .family9 ↔ fieldOp w = 0x9#4 ∧ fieldN w ≠ 0x0#4) ∧
    (decode w = .error .familyE ↔ fieldOp w = 0xE#4 ∧ fieldKK w ∉ [0x9E#8, 0xA1#8]) ∧
    (decode w = .error .familyF ↔
      fieldOp w = 0xF#4 ∧
      fieldKK w ∉ [0x07#8, 0x0A#8, 0x15#8, 0x18#8, 0x1E#8, 0x29#8, 0x33#8, 0x55#8, 0x65#8])

/-- R66, 95_test_vectors.md: words of the spec's own examples decode to the instructions they stand for, and two of its
unrecognised words (D10, log 10) to none. -/
def Obligations.WordsOfTheSpecDecode : Prop :=
  decode 0x00E0#16 = .ok .cls ∧ decode 0x220A#16 = .ok (.call 0x20A#12) ∧ decode 0x3342#16 = .ok (.seByte 0x3#4 0x42#8) ∧
  decode 0x8124#16 = .ok (.addReg 0x1#4 0x2#4) ∧ decode 0xB300#16 = .ok (.jpV0 0x300#12) ∧
  decode 0xD015#16 = .ok (.drw 0x0#4 0x1#4 0x5#4) ∧ decode 0xE19E#16 = .ok (.skp 0x1#4) ∧
  decode 0xF265#16 = .ok (.ldVxMem 0x2#4) ∧ decode 0x5121#16 = .error .family5 ∧ decode 0x00FD#16 = .error .family0

/-! ### The step -/

/-- R80: when it is the CPU's turn and the two bytes at PC, the first one more significant (R41), decode to a well-formed
instruction, the step is exec of it. Around exec the step only takes the turn off the model's own fields (`afterTurn`, log
15); PC still holds the address of the word. -/
def Obligations.StepRunsTheDecodedInstruction : Prop :=
  ∀ (s : State) (i : Instr),
    s.running = true → s.nextTurn = .cpu → s.cpuMode = .run → i.wellFormed = true →
    decodeBytes (s.readByte s.pc) (s.readByte (s.pc + 1#16)) = .ok i →
    step s = exec i s.afterTurn

/-- R89: an unrecognised word advances PC by 2 and changes nothing else (the model's own turn fields apart, log 15). -/
def Obligations.UnrecognisedWordOnlyAdvancesPc : Prop :=
  ∀ (s : State) (e : Unrecognised),
    s.running = true → s.nextTurn = .cpu → s.cpuMode = .run →
    decodeBytes (s.readByte s.pc) (s.readByte (s.pc + 1#16)) = .error e →
    ∃ t, step s = .next t ∧ t.pc.toNat = (s.pc.toNat + 2) % 65536 ∧ t = { s.afterTurn with pc := t.pc }

/-- R170: every instruction word and every operand value has a defined, non-trapping effect. -/
def Obligations.NoWordAndNoOperandTraps : Prop :=
  (∀ (i : Instr) (s : State), Completes (exec i s)) ∧ ∀ (w : Word) (s : State), Completes (executeWord w s)

/-- R176 (with the spec's decision D19): no step exactly when RUNNING is false, and a next state in every other state. That
the absence of a step is the fault `runEnded` is the model's choice (log 17). So is it that a turn passes with a next state
where it is offered to an Idle engine or to a CPU that waits with no key, for which the spec has no enabled step (R160, R161,
R152; log 16). -/
def Obligations.OnlyTheStoppedMachineHasNoStep : Prop :=
  ∀ s : State, (s.running = false → step s = .fault .runEnded) ∧ (s.running = true → Completes (step s))

/-- R152 (with the spec's decision D12): the completion step writes the key to the register that the waiting word names,
leaves WaitKey and advances PC; without a key the CPU's turn changes nothing (log 16; the model's own turn fields apart, log
15). -/
def Obligations.KeyWaitCompletesWithTheLastKey : Prop :=
  ∀ s : State, s.running = true → s.nextTurn = .cpu → s.cpuMode = .waitKey →
    (∀ k, s.lastKey = some k →
      ∃ t, step s = .next t ∧ (t.reg (fieldX s.fetchWord)).toNat = k.toNat ∧
        SameRegsBut [fieldX s.fetchWord] s t ∧ t.cpuMode = .run ∧ t.pc.toNat = (s.pc.toNat + 2) % 65536 ∧
        t = { s.afterTurn with v := t.v, cpuMode := .run, pc := t.pc }) ∧
    (s.lastKey = none → step s = .next s.afterTurn)

/-- R152, R156 (with the spec's decision D12): LD Vx,K at PC, then a press of key k, then a turn of the CPU (the turns are the
model's, log 15): the register holds the key, the key is down, PC has advanced by 2 and the CPU runs again, whatever LAST_KEY
and KEYS held before. -/
def Obligations.KeyWaitEndsWithAPressAfterEntry : Prop :=
  ∀ (s : State) (x : RegNum) (k : KeyCode) (rest : List Turn),
    s.running = true → s.cpuMode = .run → s.turns = [.cpu, .press k, .cpu] ++ rest →
    decode s.fetchWord = .ok (.ldVxK x) →
    ∃ t, Sys2Proof.core.run 3 s = .next t ∧ (t.reg x).toNat = k.toNat ∧ SameRegsBut [x] s t ∧
      t.pc = s.pc + 2#16 ∧ t.cpuMode = .run ∧ t.lastKey = some k ∧ t.keys[k.toNat] = true

/-- R160, R161: a tick lowers its own timer by one and touches nothing else (the model's own turn fields apart, log 15). A
turn of an Idle engine passes without effect, and the count stays 0 (log 16). -/
def Obligations.TicksCountDownToZero : Prop :=
  ∀ s : State, s.running = true →
    (s.nextTurn = .delayTick →
      ∃ t, step s = .next t ∧ t.dt.toNat = s.dt.toNat - 1 ∧ t = { s.afterTurn with dt := t.dt }) ∧
    (s.nextTurn = .soundTick →
      ∃ t, step s = .next t ∧ t.st.toNat = s.st.toNat - 1 ∧ t = { s.afterTurn with st := t.st })

/-- R160, R201: k turns of the delay engine lower DT by k, down to exactly zero and not below, and change nothing else, so a
timer set to v is Running before its v-th tick and Idle from it on. The turns are the model's (log 15). For k above DT, the
turns after the one that reaches zero are no ticks: the spec has no enabled step there, and that such a turn passes with a
next state and DT still 0 is the model's choice (log 16). That Running is DT not 0 is the spec's decision D14 (log 14). -/
def Obligations.DelayTimerRunsOutAfterItsValueInTicks : Prop :=
  ∀ (k : Nat) (s : State) (rest : List Turn),
    s.running = true → s.turns = List.replicate k .delayTick ++ rest →
    ∃ t, Sys2Proof.core.run k s = .next t ∧ t.dt.toNat = s.dt.toNat - k ∧
      (t.delayRunning = true ↔ k < s.dt.toNat) ∧ t = { s with dt := t.dt, turns := rest }

/-- R156: press(k) sets the key's pressed bit and LAST_KEY, and nothing else (the model's own turn fields apart, log 15). -/
def Obligations.PressSetsItsKey : Prop :=
  ∀ (s : State) (k : KeyCode), s.running = true → s.nextTurn = .press k →
    ∃ t, step s = .next t ∧ (∀ j : KeyCode, t.keys[j.toNat] = if j = k then true else s.keys[j.toNat]) ∧
      t.lastKey = some k ∧ t = { s.afterTurn with keys := t.keys, lastKey := t.lastKey }

/-- R157: release(k) clears the key's pressed bit and nothing else (the model's own turn fields apart, log 15); that LAST_KEY
stays is the spec's decision D12. -/
def Obligations.ReleaseClearsItsKey : Prop :=
  ∀ (s : State) (k : KeyCode), s.running = true → s.nextTurn = .release k →
    ∃ t, step s = .next t ∧ (∀ j : KeyCode, t.keys[j.toNat] = if j = k then false else s.keys[j.toNat]) ∧
      t = { s.afterTurn with keys := t.keys }

/-- R141 (grouped with the snapshot by the spec's decision D17): a frame lowers every off pixel's fade by one, floored at
zero, and leaves on pixels and every status (the model's own turn fields apart, log 15). -/
def Obligations.FrameDecaysOffPixels : Prop :=
  ∀ s : State, s.running = true → s.nextTurn = .frame →
    ∃ t, step s = .next t ∧
      (∀ r c, (t.pixel r c).on = (s.pixel r c).on ∧
        (t.pixel r c).fade = if (s.pixel r c).on then (s.pixel r c).fade else (s.pixel r c).fade - 1) ∧
      t = { s.afterTurn with pix := t.pix }

/-- R176 (with the spec's decision D19), R163: stop clears RUNNING and nothing else (the model's own turn fields apart, log
15), the tone is low (D14, log 14), and no step follows (log 17). -/
def Obligations.StopEndsTheRun : Prop :=
  ∀ s : State, s.running = true → s.nextTurn = .stop →
    ∃ t, step s = .next t ∧ t = { s.afterTurn with running := false } ∧ t.tone = false ∧ step t = .fault .runEnded

/-! ### Rules about the whole machine -/

/-- R163: the tone rises only by LD ST,Vx with a nonzero Vx from a silent timer, and falls only by the sound engine's last
tick, by LD ST,Vx with a zero Vx, or by stop. That the tone is RUNNING and ST not 0 is the spec's decision D14 (log 14, log
25). Whose step it is, is the model's `nextTurn` (log 15). -/
def Obligations.ToneEdgesHaveTheirCauses : Prop :=
  ∀ s t : State, step s = .next t →
    (s.tone = false → t.tone = true →
      ∃ x, executing s = some (.ldStVx x) ∧ s.st = 0x00#8 ∧ s.reg x ≠ 0x00#8) ∧
    (s.tone = true → t.tone = false →
      (s.nextTurn = .soundTick ∧ s.st = 0x01#8) ∨ (∃ x, executing s = some (.ldStVx x) ∧ s.reg x = 0x00#8) ∨
        s.nextTurn = .stop)

/-- R30: no step of an engine or of the environment changes V, I, PC, SP, STACK, CPU_MODE, MEM, or the status of a pixel; each
changes its own column's state alone. Whose step it is, is the model's `nextTurn` (log 15). -/
def Obligations.OtherAgentsLeaveTheProgramState : Prop :=
  ∀ s t : State, step s = .next t → s.nextTurn ≠ .cpu →
    SameRegs s t ∧ SameIndex s t ∧ t.pc = s.pc ∧ SameStack s t ∧ SameMemory s t ∧ t.cpuMode = s.cpuMode ∧
    (∀ r c, (t.pixel r c).on = (s.pixel r c).on) ∧
    (t.dt ≠ s.dt → s.nextTurn = .delayTick) ∧ (t.st ≠ s.st → s.nextTurn = .soundTick) ∧
    (t.running ≠ s.running → s.nextTurn = .stop) ∧
    (t.pix ≠ s.pix → s.nextTurn = .frame) ∧
    (t.keys ≠ s.keys → ∃ k, s.nextTurn = .press k ∨ s.nextTurn = .release k) ∧
    (t.lastKey ≠ s.lastKey → ∃ k, s.nextTurn = .press k)

/-- R30, R46, R48: what a turn of the CPU (log 15) changes outside V, I and PC, and by which instruction alone. -/
def Obligations.OnlyItsInstructionsReachEachUnit : Prop :=
  ∀ s t : State, step s = .next t → s.nextTurn = .cpu →
    t.keys = s.keys ∧ t.running = s.running ∧
    (t.sp ≠ s.sp ∨ t.stack ≠ s.stack → executing s = some .ret ∨ ∃ a, executing s = some (.call a)) ∧
    (t.pix ≠ s.pix → executing s = some .cls ∨ ∃ x y n, executing s = some (.drw x y n)) ∧
    (t.dt ≠ s.dt → ∃ x, executing s = some (.ldDtVx x)) ∧
    (t.st ≠ s.st → ∃ x, executing s = some (.ldStVx x)) ∧
    (t.lastKey ≠ s.lastKey → ∃ x, executing s = some (.ldVxK x)) ∧
    ((∃ a, t.readByte a ≠ s.readByte a) → ∃ x, executing s = some (.ldB x) ∨ executing s = some (.ldMemVx x))

/-- R6, R27: no step changes a strap. -/
def Obligations.StrapsNeverChange : Prop :=
  ∀ s t : State, step s = .next t → t.straps = s.straps

/-- R11: VF changes only by one of the six flag-defining instructions, as a named destination, or by a key-wait completion
whose word names it; and a flag-defining instruction whose x is not F leaves 0x00 or 0x01 there. -/
def Obligations.FlagRegisterIsWrittenOnlyAsTheRulesSay : Prop :=
  (∀ (i : Instr) (s t : State), exec i s = .next t → t.reg 0xF#4 ≠ s.reg 0xF#4 →
    definesFlag i = true ∨ 0xF#4 ∈ destinations i) ∧
  (∀ (i : Instr) (s t : State), exec i s = .next t → definesFlag i = true → 0xF#4 ∉ destinations i →
    t.reg 0xF#4 = 0x00#8 ∨ t.reg 0xF#4 = 0x01#8) ∧
  (∀ s t : State, step s = .next t → t.reg 0xF#4 ≠ s.reg 0xF#4 →
    (∃ i, executing s = some i) ∨ (s.cpuMode = .waitKey ∧ fieldX s.fetchWord = 0xF#4))

/-- R20 b, c: every step keeps memory in its canonical form, on pixels at fade 0 and every fade level at most FADE_MAX. That
CLS leaves fade 0 and a pixel going on gets fade 0 is the spec's decision D9 (log 18). -/
def Obligations.EveryStepKeepsTheInvariant : Prop :=
  ∀ s t : State, Inv s → step s = .next t → Inv t

/-- R29: the invariant holds after reset, whatever the straps. That a blank grid has fade 0 is the spec's decision D9 (log
18). -/
def Obligations.ResetMeetsTheInvariant : Prop := Inv State.reset

/-- R138: two states that differ in fade levels alone stay so at every step of every agent: the levels influence no status, no
collision, no register, no memory byte and not PC. -/
def Obligations.FadeIsCosmetic : Prop :=
  ∀ s t : State, AgreeButFade s t → OutcomesAgreeButFade (step s) (step t)

/-- R20 a, step by step: a pixel's status is cleared by CLS, XORed with the drawn sprite bit by DRW, and changed by no other
step of any agent. The bit order within a sprite byte is general knowledge in the spec (R135, D8; log 6). With x or y = F the
coordinate is the old VF, since operands are latched before the flag is written: the spec's decision D4 (log 9). -/
def Obligations.PixelStatusIsTheXorOfDraws : Prop :=
  ∀ s t : State, step s = .next t → ∀ r c, (t.pixel r c).on = litAfter s r c

/-! ### Reset and launch -/

/-- R29: the state after reset. The zeros are the spec's decision D5 (log 4), the fade 0 its decision D9 (log 18), the engine
states and the tone its decision D14 (log 14); straps and stack entries are free (log 1, log 3), so nothing is said of them.
-/
def Obligations.ResetStateIsAsTheTableSays : Prop :=
  State.reset.pc = 0x0200#16 ∧ (∀ r, State.reset.reg r = 0x00#8) ∧ State.reset.i = 0x0000#16 ∧ State.reset.sp = 0x00#8 ∧
  (∀ r c, (State.reset.pixel r c).on = false ∧ (State.reset.pixel r c).fade = 0) ∧
  State.reset.dt = 0x00#8 ∧ State.reset.st = 0x00#8 ∧ State.reset.tone = false ∧
  State.reset.delayRunning = false ∧ State.reset.soundRunning = false ∧
  (∀ k : KeyCode, State.reset.keys[k.toNat] = false) ∧ State.reset.lastKey = none ∧ State.reset.running = true ∧
  State.reset.cpuMode = .run ∧
  (∀ k : Nat, k < 5 → State.reset.readByte (BitVec.ofNat 16 k) = [0xF0#8, 0x90#8, 0x90#8, 0x90#8, 0xF0#8].getD k 0)

/-- R29, R192 (with the spec's decisions D5, D6, D9, D16; log 4, log 2, log 18, log 21; the glyphs 1 to F: D7, log 5): a
program of 1 to 0xE00 bytes is accepted, and at the first fetch memory holds the glyph table, the program from 0x200 on, and
MEM_INIT elsewhere, for every value of the open parameters. -/
def Obligations.LaunchLoadsTheProgram : Prop :=
  ∀ (straps : Straps) (memInit : Nat → Byte) (stackInit : Vector Word 16) (program : List Byte),
    wellFormedProgram program = true →
    ∃ s, launch straps memInit stackInit program = .ok s ∧ s.straps = straps ∧ s.stack = stackInit ∧ Inv s ∧
      s = { State.reset with straps := straps, stack := stackInit, mem := s.mem } ∧
      (∀ a : Word, a.toNat < 0x050 → s.readByte a = glyphs.getD a.toNat 0x00#8) ∧
      (∀ a : Word, 0x050 ≤ a.toNat → a.toNat < 0x200 → s.readByte a = memInit a.toNat) ∧
      (∀ a : Word, ∀ h : a.toNat - 0x200 < program.length, 0x200 ≤ a.toNat → s.readByte a = program[a.toNat - 0x200]) ∧
      (∀ a : Word, 0x200 + program.length ≤ a.toNat → a.toNat < 0x1000 → s.readByte a = memInit a.toNat)

/-- R182, R192: a zero-length program is refused; that one longer than 0xE00 bytes is refused too is the spec's decision D16
(log 21). -/
def Obligations.LaunchRefusesBadLengths : Prop :=
  ∀ (straps : Straps) (memInit : Nat → Byte) (stackInit : Vector Word 16) (program : List Byte),
    (program.length = 0 → launch straps memInit stackInit program = .error .zeroLength) ∧
    (0xE00 < program.length → launch straps memInit stackInit program = .error .tooLong)

/-! ### Control flow -/

/-- R81 (with the spec's decisions D2, D3): PC is the entry at SP mod 16, SP goes down by one modulo 256, the entry stays. -/
def Obligations.RetPopsTheReturnAddress : Prop :=
  ∀ s : State, ∃ t, exec .ret s = .next t ∧
    (∀ j : Fin 16, j.val = s.sp.toNat % 16 → t.pc = s.stack[j]) ∧ t.sp.toNat = (s.sp.toNat + 255) % 256 ∧
    t.stack = s.stack ∧ SameRegs s t ∧ SameIndex s t ∧ SameMemory s t ∧ SameDevices s t

/-- R82: PC becomes the 12-bit address, and nothing else changes. -/
def Obligations.JumpSetsPc : Prop :=
  ∀ (nnn : Addr) (s : State), ∃ t, exec (.jp nnn) s = .next t ∧ t.pc.toNat = nnn.toNat ∧ SameButPc s t

/-- R83 (with the spec's decisions D2, D3): SP goes up by one, the address after the CALL is written to the entry at the new
SP mod 16, PC becomes the target. -/
def Obligations.CallPushesTheReturnAddress : Prop :=
  ∀ (nnn : Addr) (s : State), ∃ t, exec (.call nnn) s = .next t ∧ t.pc.toNat = nnn.toNat ∧
    t.sp.toNat = (s.sp.toNat + 1) % 256 ∧
    (∀ j : Fin 16, if j.val = (s.sp.toNat + 1) % 16 then t.stack[j].toNat = (s.pc.toNat + 2) % 65536
      else t.stack[j] = s.stack[j]) ∧
    SameRegs s t ∧ SameIndex s t ∧ SameMemory s t ∧ SameDevices s t

/-- R205 (with the spec's decision D2): up to sixteen nested calls all return. After the calls to any list of targets and as
many RETs, PC is the address after the first CALL and SP is as before. -/
def Obligations.SixteenNestedCallsReturn : Prop :=
  ∀ (targets : List Addr) (s : State), 1 ≤ targets.length → targets.length ≤ 16 →
    ∃ t, execAll (targets.map .call ++ List.replicate targets.length .ret) s = .next t ∧
      t.pc.toNat = (s.pc.toNat + 2) % 65536 ∧ t.sp = s.sp ∧ SameRegs s t ∧ SameIndex s t ∧ SameMemory s t ∧ SameDevices s t

/-- R84 to R87: each of the four compares adds 4 to PC when its condition holds, else 2, and changes nothing else. -/
def Obligations.CompareSkips : Prop :=
  ∀ (x y : RegNum) (kk : Byte) (s : State),
    (∃ t, exec (.seByte x kk) s = .next t ∧ SameButPc s t ∧
      t.pc.toNat = (s.pc.toNat + if (s.reg x).toNat = kk.toNat then 4 else 2) % 65536) ∧
    (∃ t, exec (.sneByte x kk) s = .next t ∧ SameButPc s t ∧
      t.pc.toNat = (s.pc.toNat + if (s.reg x).toNat = kk.toNat then 2 else 4) % 65536) ∧
    (∃ t, exec (.seReg x y) s = .next t ∧ SameButPc s t ∧
      t.pc.toNat = (s.pc.toNat + if (s.reg x).toNat = (s.reg y).toNat then 4 else 2) % 65536) ∧
    (∃ t, exec (.sneReg x y) s = .next t ∧ SameButPc s t ∧
      t.pc.toNat = (s.pc.toNat + if (s.reg x).toNat = (s.reg y).toNat then 2 else 4) % 65536)

/-- R88: PC becomes V0 + nnn, under every strap, not reduced to 12 bits. -/
def Obligations.JumpWithOffsetAddsV0 : Prop :=
  ∀ (nnn : Addr) (s : State), ∃ t, exec (.jpV0 nnn) s = .next t ∧
    t.pc.toNat = (s.reg 0x0#4).toNat + nnn.toNat ∧ SameButPc s t

/-! ### Register, arithmetic, logic, shift, random -/

/-- R100, R102: the loads write the immediate, or the other register's value, to Vx and no other register. -/
def Obligations.RegisterLoads : Prop :=
  ∀ (x y : RegNum) (kk : Byte) (s : State),
    (∃ t, exec (.ldByte x kk) s = .next t ∧ t.reg x = kk ∧ SameRegsBut [x] s t ∧
      t.pc.toNat = (s.pc.toNat + 2) % 65536 ∧ SameButRegs s t) ∧
    (∃ t, exec (.ldReg x y) s = .next t ∧ t.reg x = s.reg y ∧ SameRegsBut [x] s t ∧
      t.pc.toNat = (s.pc.toNat + 2) % 65536 ∧ SameButRegs s t)

/-- R101: Vx becomes the sum modulo 256; no other register changes, VF included. -/
def Obligations.AddImmediateWrapsWithoutFlag : Prop :=
  ∀ (x : RegNum) (kk : Byte) (s : State), ∃ t, exec (.addByte x kk) s = .next t ∧
    (t.reg x).toNat = ((s.reg x).toNat + kk.toNat) % 256 ∧ SameRegsBut [x] s t ∧
    t.pc.toNat = (s.pc.toNat + 2) % 65536 ∧ SameButRegs s t

/-- R103, R104, R105: bit by bit, Vx becomes the combination of Vx and Vy; no other register changes, VF included. -/
def Obligations.LogicCombinesBits : Prop :=
  ∀ (x y : RegNum) (s : State),
    (∃ t, exec (.orReg x y) s = .next t ∧
      (∀ b < 8, (t.reg x).getLsbD b = ((s.reg x).getLsbD b || (s.reg y).getLsbD b)) ∧ SameRegsBut [x] s t ∧
      t.pc.toNat = (s.pc.toNat + 2) % 65536 ∧ SameButRegs s t) ∧
    (∃ t, exec (.andReg x y) s = .next t ∧
      (∀ b < 8, (t.reg x).getLsbD b = ((s.reg x).getLsbD b && (s.reg y).getLsbD b)) ∧ SameRegsBut [x] s t ∧
      t.pc.toNat = (s.pc.toNat + 2) % 65536 ∧ SameButRegs s t) ∧
    (∃ t, exec (.xorReg x y) s = .next t ∧
      (∀ b < 8, (t.reg x).getLsbD b = ((s.reg x).getLsbD b ^^ (s.reg y).getLsbD b)) ∧ SameRegsBut [x] s t ∧
      t.pc.toNat = (s.pc.toNat + 2) % 65536 ∧ SameButRegs s t)

/-- R106, R113: Vx is the sum modulo 256 and, where x is not F, VF is 1 exactly when a + b is at least 256. With x = F the sum
overwrites the flag: the order of the writes is the spec's decision D4 (log 9). -/
def Obligations.AddSetsCarry : Prop :=
  ∀ (x y : RegNum) (s : State), ∃ t, exec (.addReg x y) s = .next t ∧
    (t.reg x).toNat = ((s.reg x).toNat + (s.reg y).toNat) % 256 ∧
    (x ≠ 0xF#4 → t.reg 0xF#4 = if 256 ≤ (s.reg x).toNat + (s.reg y).toNat then 0x01#8 else 0x00#8) ∧
    SameRegsBut [x, 0xF#4] s t ∧ t.pc.toNat = (s.pc.toNat + 2) % 65536 ∧ SameButRegs s t

/-- R107, R109, R113, R114: Vx is the difference modulo 256 and, where x is not F, VF is 1 exactly when no borrow occurs. With
x = F the difference overwrites the flag: the order of the writes is the spec's decision D4 (log 9). -/
def Obligations.SubtractionsSetNoBorrow : Prop :=
  ∀ (x y : RegNum) (s : State),
    (∃ t, exec (.subReg x y) s = .next t ∧
      (t.reg x).toNat = ((s.reg x).toNat + 256 - (s.reg y).toNat) % 256 ∧
      (x ≠ 0xF#4 → t.reg 0xF#4 = if (s.reg y).toNat ≤ (s.reg x).toNat then 0x01#8 else 0x00#8) ∧
      SameRegsBut [x, 0xF#4] s t ∧ t.pc.toNat = (s.pc.toNat + 2) % 65536 ∧ SameButRegs s t) ∧
    (∃ t, exec (.subn x y) s = .next t ∧
      (t.reg x).toNat = ((s.reg y).toNat + 256 - (s.reg x).toNat) % 256 ∧
      (x ≠ 0xF#4 → t.reg 0xF#4 = if (s.reg x).toNat ≤ (s.reg y).toNat then 0x01#8 else 0x00#8) ∧
      SameRegsBut [x, 0xF#4] s t ∧ t.pc.toNat = (s.pc.toNat + 2) % 65536 ∧ SameButRegs s t)

/-- R108, R110, R113: the source is Vy under chip8 and Vx under schip8; VF is the bit shifted out, and where x is not F, Vx is
the shifted source. With x = F the flag overwrites the result: the order of the writes is the spec's decision D4 (log 9). -/
def Obligations.ShiftsFollowTheVariant : Prop :=
  ∀ (x y : RegNum) (s : State) (src : Byte),
    src = (if s.straps.variant = .chip8 then s.reg y else s.reg x) →
    (∃ t, exec (.shr x y) s = .next t ∧ (x ≠ 0xF#4 → (t.reg x).toNat = src.toNat / 2) ∧
      (t.reg 0xF#4).toNat = src.toNat % 2 ∧ SameRegsBut [x, 0xF#4] s t ∧
      t.pc.toNat = (s.pc.toNat + 2) % 65536 ∧ SameButRegs s t) ∧
    (∃ t, exec (.shl x y) s = .next t ∧ (x ≠ 0xF#4 → (t.reg x).toNat = src.toNat * 2 % 256) ∧
      (t.reg 0xF#4).toNat = src.toNat / 128 ∧ SameRegsBut [x, 0xF#4] s t ∧
      t.pc.toNat = (s.pc.toNat + 2) % 65536 ∧ SameButRegs s t)

/-- R111, R112 (with the spec's decision D13): Vx is the drawn byte under the mask, the draw being the free value
`Config.draw8`, and the next RND takes the next one (log 13). It holds whatever the draws are. -/
def Obligations.RandomIsAFreshDrawUnderTheMask : Prop :=
  ∀ (x : RegNum) (kk : Byte) (s : State), ∃ t, exec (.rnd x kk) s = .next t ∧
    (∀ b < 8, (t.reg x).getLsbD b = ((Config.draw8 s.draws).getLsbD b && kk.getLsbD b)) ∧ t.draws = s.draws + 1 ∧
    SameRegsBut [x] s t ∧ t.pc.toNat = (s.pc.toNat + 2) % 65536 ∧
    SameIndex s t ∧ SameStack s t ∧ SameMemory s t ∧ SameDisplay s t ∧ SameTimers s t ∧ SameKeypad s t ∧ SameControl s t ∧
    t.turns = s.turns ∧ t.turnsDrawn = s.turnsDrawn

/-! ### Index register and memory -/

/-- R120, R121: I becomes the 12-bit address, or the 16-bit sum; no register changes, VF included. -/
def Obligations.IndexLoadAndAdd : Prop :=
  (∀ (nnn : Addr) (s : State), ∃ t, exec (.ldI nnn) s = .next t ∧ t.i.toNat = nnn.toNat ∧
    t.pc.toNat = (s.pc.toNat + 2) % 65536 ∧ SameRegs s t ∧ SameStack s t ∧ SameMemory s t ∧ SameDevices s t) ∧
  (∀ (x : RegNum) (s : State), ∃ t, exec (.addI x) s = .next t ∧ t.i.toNat = (s.i.toNat + (s.reg x).toNat) % 65536 ∧
    t.pc.toNat = (s.pc.toNat + 2) % 65536 ∧ SameRegs s t ∧ SameStack s t ∧ SameMemory s t ∧ SameDevices s t)

/-- R122: I becomes Vx times 5; that a Vx above 0x0F is not masked is the spec's decision D20 (log 23). -/
def Obligations.GlyphAddressIsFiveTimesVx : Prop :=
  ∀ (x : RegNum) (s : State), ∃ t, exec (.ldF x) s = .next t ∧ t.i.toNat = (s.reg x).toNat * 5 ∧
    t.pc.toNat = (s.pc.toNat + 2) % 65536 ∧ SameRegs s t ∧ SameStack s t ∧ SameMemory s t ∧ SameDevices s t

/-- R123: the hundreds, tens and ones digits of Vx at I, I + 1, I + 2, each address modulo 4096 (the spec's decision D1);
every other byte, I and the registers as before. -/
def Obligations.DecimalDigitsAreStored : Prop :=
  ∀ (x : RegNum) (s : State), Memory.wf s.mem = true → ∃ t, exec (.ldB x) s = .next t ∧
    (t.readByte (s.effAddr 0)).toNat = (s.reg x).toNat / 100 ∧
    (t.readByte (s.effAddr 1)).toNat = (s.reg x).toNat / 10 % 10 ∧
    (t.readByte (s.effAddr 2)).toNat = (s.reg x).toNat % 10 ∧ SameMemoryOutside 3 s t ∧
    t.pc.toNat = (s.pc.toNat + 2) % 65536 ∧ SameRegs s t ∧ SameIndex s t ∧ SameStack s t ∧ SameDevices s t

/-- R124: register r goes to I + r for every r up to x, each address modulo 4096 (the spec's decision D1); I moves on by x + 1
under chip8 and stays under schip8; every other byte and the registers as before. -/
def Obligations.RegistersAreStored : Prop :=
  ∀ (x : RegNum) (s : State), Memory.wf s.mem = true → ∃ t, exec (.ldMemVx x) s = .next t ∧
    (∀ r : RegNum, r.toNat ≤ x.toNat → t.readByte (s.effAddr r.toNat) = s.reg r) ∧
    SameMemoryOutside (x.toNat + 1) s t ∧
    t.i.toNat = (s.i.toNat + if s.straps.variant = .chip8 then x.toNat + 1 else 0) % 65536 ∧
    t.pc.toNat = (s.pc.toNat + 2) % 65536 ∧ SameRegs s t ∧ SameStack s t ∧ SameDevices s t

/-- R125: the byte at I + r goes to register r for every r up to x, each address modulo 4096 (the spec's decision D1), VF like
the rest; I as in R124; memory and the other registers as before. -/
def Obligations.RegistersAreLoaded : Prop :=
  ∀ (x : RegNum) (s : State), ∃ t, exec (.ldVxMem x) s = .next t ∧
    (∀ r : RegNum, t.reg r = if r.toNat ≤ x.toNat then s.readByte (s.effAddr r.toNat) else s.reg r) ∧
    t.i.toNat = (s.i.toNat + if s.straps.variant = .chip8 then x.toNat + 1 else 0) % 65536 ∧
    t.pc.toNat = (s.pc.toNat + 2) % 65536 ∧ SameMemory s t ∧ SameStack s t ∧ SameDevices s t

/-- R125, the round-trip property: after LD [I],Vx, with I set back and the registers overwritten in between, LD Vx,[I]
restores V0 to Vx, under both variants. -/
def Obligations.StoreThenLoadRestoresRegisters : Prop :=
  ∀ (x : RegNum) (s : State) (between : Vector Byte 16), Memory.wf s.mem = true →
    ∃ t u, exec (.ldMemVx x) s = .next t ∧ exec (.ldVxMem x) { t with i := s.i, v := between } = .next u ∧
      (∀ r : RegNum, r.toNat ≤ x.toNat → u.reg r = s.reg r) ∧ u.i = t.i

/-- R49, R204: what LD [I],V1 stores at the address of the following instruction is what the next fetch returns, V0 as its
more significant byte. -/
def Obligations.StoreIsSeenByTheNextFetch : Prop :=
  ∀ s : State, Memory.wf s.mem = true → s.i = s.pc + 2#16 →
    ∃ t, exec (.ldMemVx 0x1#4) s = .next t ∧ t.fetchWord = wordOfBytes (s.reg 0x0#4) (s.reg 0x1#4)

/-- R40 (the spec's decision D1), R41, R43: a fetch reads the entries PC and PC + 1 modulo 4096, whatever PC's upper four bits
and whether it is even or odd. -/
def Obligations.FetchUsesPcModulo4096 : Prop :=
  ∀ (s : State) (w : Word), w.toNat % 4096 = s.pc.toNat % 4096 →
    (s.setPc w).fetchWord = s.fetchWord ∧
    s.fetchWord.toNat
      = 256 * (Memory.get s.mem (s.pc.toNat % 4096)).toNat + (Memory.get s.mem ((s.pc.toNat + 1) % 4096)).toNat

/-! ### Display -/

/-- R130: every pixel off; that its fade level is 0 is the spec's decision D9 (log 18). -/
def Obligations.ClsBlanksTheDisplay : Prop :=
  ∀ s : State, ∃ t, exec .cls s = .next t ∧ (∀ r c, (t.pixel r c).on = false ∧ (t.pixel r c).fade = 0) ∧
    t.pc.toNat = (s.pc.toNat + 2) % 65536 ∧ SameRegs s t ∧ SameIndex s t ∧ SameStack s t ∧ SameMemory s t ∧ SameTimers s t ∧
    SameKeypad s t ∧ SameControl s t ∧ SameBookkeeping s t

/-- R131, R132, R136, R137: a pixel that a sprite bit 1 lands on is toggled, its fade set to FADE_MAX when it goes off and to
0 when it goes on; every other pixel keeps status and fade; VF is 1 exactly when a pixel went from on to off. The bit order is
general knowledge in the spec (R135, D8; log 6), zero rows its decision D21 (log 23). That a pixel going on gets fade 0 is its
decision D9 (log 18; R137 marks it derived). With x or y = F the coordinate is the old VF, since operands are latched before
the flag is written: the spec's decision D4 (log 9). -/
def Obligations.DrawTogglesTheCoveredPixels : Prop :=
  ∀ (x y : RegNum) (n : RowCount) (s : State), ∃ t, exec (.drw x y n) s = .next t ∧
    (∀ r c, if spriteCovers s x y n r c = true then
        (t.pixel r c).on = !(s.pixel r c).on ∧ (t.pixel r c).fade = (if (s.pixel r c).on then s.straps.fadeMax else 0)
      else t.pixel r c = s.pixel r c) ∧
    (t.reg 0xF#4 = 0x01#8 ↔ ∃ r c, (s.pixel r c).on = true ∧ (t.pixel r c).on = false) ∧
    (t.reg 0xF#4 = 0x00#8 ∨ t.reg 0xF#4 = 0x01#8) ∧ SameRegsBut [0xF#4] s t ∧
    t.pc.toNat = (s.pc.toNat + 2) % 65536 ∧ SameIndex s t ∧ SameStack s t ∧ SameMemory s t ∧ SameTimers s t ∧ SameKeypad s t ∧
    SameControl s t ∧ SameBookkeeping s t

/-- R133: under wrap every sprite bit lands, row index (y + row) mod 32 and column index (x + column) mod 64: the pixel's
status becomes the XOR of its old status with the bit. Bit 7 - column is the spec's decision D8 (log 6). With x or y = F the
coordinate is the old VF, since operands are latched before the flag is written: the spec's decision D4 (log 9). -/
def Obligations.WrapDrawsEverySpriteBit : Prop :=
  ∀ (x y : RegNum) (n : RowCount) (s : State), s.straps.drawPolicy = .wrap → ∃ t, exec (.drw x y n) s = .next t ∧
    ∀ (r : Fin 32) (c : Fin 64) (row col : Nat), row < n.toNat → col < 8 →
      r.val = ((s.reg y).toNat + row) % 32 → c.val = ((s.reg x).toNat + col) % 64 →
      (t.pixel r c).on = ((s.pixel r c).on ^^ (s.readByte (s.effAddr row)).getLsbD (7 - col))

/-- R134: under clip a sprite bit on the grid is XORed into its pixel, and no pixel left of the start column or above the
start row changes: what reaches past the right or bottom edge is not drawn. Bit 7 - column is the spec's decision D8 (log 6).
With x or y = F the coordinate is the old VF, since operands are latched before the flag is written: the spec's decision D4
(log 9). -/
def Obligations.ClipDrawsOnlyOnTheGrid : Prop :=
  ∀ (x y : RegNum) (n : RowCount) (s : State), s.straps.drawPolicy = .clip → ∃ t, exec (.drw x y n) s = .next t ∧
    (∀ (r : Fin 32) (c : Fin 64) (row col : Nat), row < n.toNat → col < 8 →
      r.val = (s.reg y).toNat % 32 + row → c.val = (s.reg x).toNat % 64 + col →
      (t.pixel r c).on = ((s.pixel r c).on ^^ (s.readByte (s.effAddr row)).getLsbD (7 - col))) ∧
    (∀ (r : Fin 32) (c : Fin 64), r.val < (s.reg y).toNat % 32 ∨ c.val < (s.reg x).toNat % 64 →
      t.pixel r c = s.pixel r c)

/-- Derived from R132 and R136: the same sprite drawn twice at the same place restores every pixel's status, and the second
draw reports a collision exactly when the sprite has a bit 1 that landed on a pixel that was off. R131's corner case says
instead that it does 'if the sprite has any 1 bit that landed on the grid': the statement departs from that sentence, which
R132's procedure gives only where such a bit landed on a pixel that was off (log 32). Which pixel a sprite bit reaches rests
on the bit order 7 - column, general knowledge in the spec (R135, D8; log 6). -/
def Obligations.DrawingTwiceRestoresTheDisplay : Prop :=
  ∀ (x y : RegNum) (n : RowCount) (s : State), x ≠ 0xF#4 → y ≠ 0xF#4 →
    ∃ t u, exec (.drw x y n) s = .next t ∧ exec (.drw x y n) t = .next u ∧
      (∀ r c, (u.pixel r c).on = (s.pixel r c).on) ∧
      (u.reg 0xF#4 = 0x01#8 ↔ ∃ r c, spriteCovers s x y n r c = true ∧ (s.pixel r c).on = false)

/-! ### Keys and timers -/

/-- R150, R151 (with the spec's decision D11, log 11): SKP skips exactly when Vx names a key, 0x0 to 0xF, whose pressed bit is
set; SKNP is its exact complement. -/
def Obligations.KeySkips : Prop :=
  ∀ (x : RegNum) (s : State) (down : Bool),
    (down = true ↔ ∃ k : KeyCode, (s.reg x).toNat = k.toNat ∧ s.keys[k.toNat] = true) →
    (∃ t, exec (.skp x) s = .next t ∧ SameButPc s t ∧
      t.pc.toNat = (s.pc.toNat + if down then 4 else 2) % 65536) ∧
    (∃ t, exec (.sknp x) s = .next t ∧ SameButPc s t ∧
      t.pc.toNat = (s.pc.toNat + if down then 2 else 4) % 65536)

/-- R152 (with the spec's decision D12, log 12): the entry step of LD Vx,K clears LAST_KEY and enters WaitKey; PC and every
register stay, Vx included. -/
def Obligations.KeyWaitEntryClearsLastKey : Prop :=
  ∀ (x : RegNum) (s : State), ∃ t, exec (.ldVxK x) s = .next t ∧ t.lastKey = none ∧ t.cpuMode = .waitKey ∧ t.pc = s.pc ∧
    t.keys = s.keys ∧ SameRegs s t ∧ SameIndex s t ∧ SameStack s t ∧ SameMemory s t ∧ SameDisplay s t ∧ SameTimers s t ∧
    t.running = s.running ∧ t.straps = s.straps ∧ SameBookkeeping s t

/-- R153: Vx becomes the delay timer's value. -/
def Obligations.DelayTimerIsRead : Prop :=
  ∀ (x : RegNum) (s : State), ∃ t, exec (.ldVxDt x) s = .next t ∧ t.reg x = s.dt ∧ SameRegsBut [x] s t ∧
    t.pc.toNat = (s.pc.toNat + 2) % 65536 ∧ SameButRegs s t

/-- R154, R155, R22, R23: DT or ST becomes Vx; the engine is Running exactly when the value is nonzero, and during the run the
tone is high exactly when ST is not 0, so a zero Vx starts nothing. The engine and tone clauses are conflict C5's resolution,
the spec's decision D14 (log 14). -/
def Obligations.TimersAreSet : Prop :=
  ∀ (x : RegNum) (s : State),
    (∃ t, exec (.ldDtVx x) s = .next t ∧ t.dt = s.reg x ∧ t.st = s.st ∧
      (t.delayRunning = true ↔ (s.reg x).toNat ≠ 0) ∧ t.pc.toNat = (s.pc.toNat + 2) % 65536 ∧ SameRegs s t ∧
      SameIndex s t ∧ SameStack s t ∧ SameMemory s t ∧ SameDisplay s t ∧ SameKeypad s t ∧ SameControl s t ∧
      SameBookkeeping s t) ∧
    (∃ t, exec (.ldStVx x) s = .next t ∧ t.st = s.reg x ∧ t.dt = s.dt ∧
      (t.soundRunning = true ↔ (s.reg x).toNat ≠ 0) ∧
      (t.tone = true ↔ s.running = true ∧ (s.reg x).toNat ≠ 0) ∧ t.pc.toNat = (s.pc.toNat + 2) % 65536 ∧ SameRegs s t ∧
      SameIndex s t ∧ SameStack s t ∧ SameMemory s t ∧ SameDisplay s t ∧ SameKeypad s t ∧ SameControl s t ∧
      SameBookkeeping s t)
end

