-- ==== Sys2Proof/Laws/State.lean ====
section
/-! SUPPORT. One lemma per field per update and per accessor per update, so that no later proof unfolds a record update. -/

namespace Sys2Proof.Machine

variable (s : State)

@[simp] theorem State.setReg_v (x : RegNum) (b : Byte) : (s.setReg x b).v = s.v.set x.toNat b := rfl
@[simp] theorem State.setReg_i (x : RegNum) (b : Byte) : (s.setReg x b).i = s.i := rfl
@[simp] theorem State.setReg_pc (x : RegNum) (b : Byte) : (s.setReg x b).pc = s.pc := rfl
@[simp] theorem State.setReg_sp (x : RegNum) (b : Byte) : (s.setReg x b).sp = s.sp := rfl
@[simp] theorem State.setReg_stack (x : RegNum) (b : Byte) : (s.setReg x b).stack = s.stack := rfl
@[simp] theorem State.setReg_mem (x : RegNum) (b : Byte) : (s.setReg x b).mem = s.mem := rfl
@[simp] theorem State.setReg_pix (x : RegNum) (b : Byte) : (s.setReg x b).pix = s.pix := rfl
@[simp] theorem State.setReg_dt (x : RegNum) (b : Byte) : (s.setReg x b).dt = s.dt := rfl
@[simp] theorem State.setReg_st (x : RegNum) (b : Byte) : (s.setReg x b).st = s.st := rfl
@[simp] theorem State.setReg_keys (x : RegNum) (b : Byte) : (s.setReg x b).keys = s.keys := rfl
@[simp] theorem State.setReg_lastKey (x : RegNum) (b : Byte) : (s.setReg x b).lastKey = s.lastKey := rfl
@[simp] theorem State.setReg_running (x : RegNum) (b : Byte) : (s.setReg x b).running = s.running := rfl
@[simp] theorem State.setReg_cpuMode (x : RegNum) (b : Byte) : (s.setReg x b).cpuMode = s.cpuMode := rfl
@[simp] theorem State.setReg_straps (x : RegNum) (b : Byte) : (s.setReg x b).straps = s.straps := rfl
@[simp] theorem State.setReg_draws (x : RegNum) (b : Byte) : (s.setReg x b).draws = s.draws := rfl
@[simp] theorem State.setReg_turns (x : RegNum) (b : Byte) : (s.setReg x b).turns = s.turns := rfl
@[simp] theorem State.setReg_turnsDrawn (x : RegNum) (b : Byte) : (s.setReg x b).turnsDrawn = s.turnsDrawn := rfl
@[simp] theorem State.setReg_readByte (x : RegNum) (b : Byte) (adr : Word) : (s.setReg x b).readByte adr = s.readByte adr := rfl
@[simp] theorem State.setReg_pixel (x : RegNum) (b : Byte) (r : Fin 32) (q : Fin 64) : (s.setReg x b).pixel r q = s.pixel r q := rfl
@[simp] theorem State.setReg_top (x : RegNum) (b : Byte) : (s.setReg x b).top = s.top := rfl

@[simp] theorem State.setI_v (w : Word) : (s.setI w).v = s.v := rfl
@[simp] theorem State.setI_i (w : Word) : (s.setI w).i = w := rfl
@[simp] theorem State.setI_pc (w : Word) : (s.setI w).pc = s.pc := rfl
@[simp] theorem State.setI_sp (w : Word) : (s.setI w).sp = s.sp := rfl
@[simp] theorem State.setI_stack (w : Word) : (s.setI w).stack = s.stack := rfl
@[simp] theorem State.setI_mem (w : Word) : (s.setI w).mem = s.mem := rfl
@[simp] theorem State.setI_pix (w : Word) : (s.setI w).pix = s.pix := rfl
@[simp] theorem State.setI_dt (w : Word) : (s.setI w).dt = s.dt := rfl
@[simp] theorem State.setI_st (w : Word) : (s.setI w).st = s.st := rfl
@[simp] theorem State.setI_keys (w : Word) : (s.setI w).keys = s.keys := rfl
@[simp] theorem State.setI_lastKey (w : Word) : (s.setI w).lastKey = s.lastKey := rfl
@[simp] theorem State.setI_running (w : Word) : (s.setI w).running = s.running := rfl
@[simp] theorem State.setI_cpuMode (w : Word) : (s.setI w).cpuMode = s.cpuMode := rfl
@[simp] theorem State.setI_straps (w : Word) : (s.setI w).straps = s.straps := rfl
@[simp] theorem State.setI_draws (w : Word) : (s.setI w).draws = s.draws := rfl
@[simp] theorem State.setI_turns (w : Word) : (s.setI w).turns = s.turns := rfl
@[simp] theorem State.setI_turnsDrawn (w : Word) : (s.setI w).turnsDrawn = s.turnsDrawn := rfl
@[simp] theorem State.setI_reg (w : Word) (y : RegNum) : (s.setI w).reg y = s.reg y := rfl
@[simp] theorem State.setI_readByte (w : Word) (adr : Word) : (s.setI w).readByte adr = s.readByte adr := rfl
@[simp] theorem State.setI_pixel (w : Word) (r : Fin 32) (q : Fin 64) : (s.setI w).pixel r q = s.pixel r q := rfl
@[simp] theorem State.setI_top (w : Word) : (s.setI w).top = s.top := rfl

@[simp] theorem State.setPc_v (w : Word) : (s.setPc w).v = s.v := rfl
@[simp] theorem State.setPc_i (w : Word) : (s.setPc w).i = s.i := rfl
@[simp] theorem State.setPc_pc (w : Word) : (s.setPc w).pc = w := rfl
@[simp] theorem State.setPc_sp (w : Word) : (s.setPc w).sp = s.sp := rfl
@[simp] theorem State.setPc_stack (w : Word) : (s.setPc w).stack = s.stack := rfl
@[simp] theorem State.setPc_mem (w : Word) : (s.setPc w).mem = s.mem := rfl
@[simp] theorem State.setPc_pix (w : Word) : (s.setPc w).pix = s.pix := rfl
@[simp] theorem State.setPc_dt (w : Word) : (s.setPc w).dt = s.dt := rfl
@[simp] theorem State.setPc_st (w : Word) : (s.setPc w).st = s.st := rfl
@[simp] theorem State.setPc_keys (w : Word) : (s.setPc w).keys = s.keys := rfl
@[simp] theorem State.setPc_lastKey (w : Word) : (s.setPc w).lastKey = s.lastKey := rfl
@[simp] theorem State.setPc_running (w : Word) : (s.setPc w).running = s.running := rfl
@[simp] theorem State.setPc_cpuMode (w : Word) : (s.setPc w).cpuMode = s.cpuMode := rfl
@[simp] theorem State.setPc_straps (w : Word) : (s.setPc w).straps = s.straps := rfl
@[simp] theorem State.setPc_draws (w : Word) : (s.setPc w).draws = s.draws := rfl
@[simp] theorem State.setPc_turns (w : Word) : (s.setPc w).turns = s.turns := rfl
@[simp] theorem State.setPc_turnsDrawn (w : Word) : (s.setPc w).turnsDrawn = s.turnsDrawn := rfl
@[simp] theorem State.setPc_reg (w : Word) (y : RegNum) : (s.setPc w).reg y = s.reg y := rfl
@[simp] theorem State.setPc_readByte (w : Word) (adr : Word) : (s.setPc w).readByte adr = s.readByte adr := rfl
@[simp] theorem State.setPc_pixel (w : Word) (r : Fin 32) (q : Fin 64) : (s.setPc w).pixel r q = s.pixel r q := rfl
@[simp] theorem State.setPc_top (w : Word) : (s.setPc w).top = s.top := rfl

@[simp] theorem State.advance_v : (s.advance).v = s.v := rfl
@[simp] theorem State.advance_i : (s.advance).i = s.i := rfl
@[simp] theorem State.advance_pc : (s.advance).pc = s.pc + 2#16 := rfl
@[simp] theorem State.advance_sp : (s.advance).sp = s.sp := rfl
@[simp] theorem State.advance_stack : (s.advance).stack = s.stack := rfl
@[simp] theorem State.advance_mem : (s.advance).mem = s.mem := rfl
@[simp] theorem State.advance_pix : (s.advance).pix = s.pix := rfl
@[simp] theorem State.advance_dt : (s.advance).dt = s.dt := rfl
@[simp] theorem State.advance_st : (s.advance).st = s.st := rfl
@[simp] theorem State.advance_keys : (s.advance).keys = s.keys := rfl
@[simp] theorem State.advance_lastKey : (s.advance).lastKey = s.lastKey := rfl
@[simp] theorem State.advance_running : (s.advance).running = s.running := rfl
@[simp] theorem State.advance_cpuMode : (s.advance).cpuMode = s.cpuMode := rfl
@[simp] theorem State.advance_straps : (s.advance).straps = s.straps := rfl
@[simp] theorem State.advance_draws : (s.advance).draws = s.draws := rfl
@[simp] theorem State.advance_turns : (s.advance).turns = s.turns := rfl
@[simp] theorem State.advance_turnsDrawn : (s.advance).turnsDrawn = s.turnsDrawn := rfl
@[simp] theorem State.advance_reg (y : RegNum) : (s.advance).reg y = s.reg y := rfl
@[simp] theorem State.advance_readByte (adr : Word) : (s.advance).readByte adr = s.readByte adr := rfl
@[simp] theorem State.advance_pixel (r : Fin 32) (q : Fin 64) : (s.advance).pixel r q = s.pixel r q := rfl
@[simp] theorem State.advance_top : (s.advance).top = s.top := rfl

@[simp] theorem State.skipIf_v (c : Bool) : (s.skipIf c).v = s.v := rfl
@[simp] theorem State.skipIf_i (c : Bool) : (s.skipIf c).i = s.i := rfl
@[simp] theorem State.skipIf_pc (c : Bool) : (s.skipIf c).pc = s.pc + (if c then 4#16 else 2#16) := rfl
@[simp] theorem State.skipIf_sp (c : Bool) : (s.skipIf c).sp = s.sp := rfl
@[simp] theorem State.skipIf_stack (c : Bool) : (s.skipIf c).stack = s.stack := rfl
@[simp] theorem State.skipIf_mem (c : Bool) : (s.skipIf c).mem = s.mem := rfl
@[simp] theorem State.skipIf_pix (c : Bool) : (s.skipIf c).pix = s.pix := rfl
@[simp] theorem State.skipIf_dt (c : Bool) : (s.skipIf c).dt = s.dt := rfl
@[simp] theorem State.skipIf_st (c : Bool) : (s.skipIf c).st = s.st := rfl
@[simp] theorem State.skipIf_keys (c : Bool) : (s.skipIf c).keys = s.keys := rfl
@[simp] theorem State.skipIf_lastKey (c : Bool) : (s.skipIf c).lastKey = s.lastKey := rfl
@[simp] theorem State.skipIf_running (c : Bool) : (s.skipIf c).running = s.running := rfl
@[simp] theorem State.skipIf_cpuMode (c : Bool) : (s.skipIf c).cpuMode = s.cpuMode := rfl
@[simp] theorem State.skipIf_straps (c : Bool) : (s.skipIf c).straps = s.straps := rfl
@[simp] theorem State.skipIf_draws (c : Bool) : (s.skipIf c).draws = s.draws := rfl
@[simp] theorem State.skipIf_turns (c : Bool) : (s.skipIf c).turns = s.turns := rfl
@[simp] theorem State.skipIf_turnsDrawn (c : Bool) : (s.skipIf c).turnsDrawn = s.turnsDrawn := rfl
@[simp] theorem State.skipIf_reg (c : Bool) (y : RegNum) : (s.skipIf c).reg y = s.reg y := rfl
@[simp] theorem State.skipIf_readByte (c : Bool) (adr : Word) : (s.skipIf c).readByte adr = s.readByte adr := rfl
@[simp] theorem State.skipIf_pixel (c : Bool) (r : Fin 32) (q : Fin 64) : (s.skipIf c).pixel r q = s.pixel r q := rfl
@[simp] theorem State.skipIf_top (c : Bool) : (s.skipIf c).top = s.top := rfl

@[simp] theorem State.writeByte_v (a : Word) (b : Byte) : (s.writeByte a b).v = s.v := rfl
@[simp] theorem State.writeByte_i (a : Word) (b : Byte) : (s.writeByte a b).i = s.i := rfl
@[simp] theorem State.writeByte_pc (a : Word) (b : Byte) : (s.writeByte a b).pc = s.pc := rfl
@[simp] theorem State.writeByte_sp (a : Word) (b : Byte) : (s.writeByte a b).sp = s.sp := rfl
@[simp] theorem State.writeByte_stack (a : Word) (b : Byte) : (s.writeByte a b).stack = s.stack := rfl
@[simp] theorem State.writeByte_mem (a : Word) (b : Byte) : (s.writeByte a b).mem = Memory.put s.mem (memIndex a) b := rfl
@[simp] theorem State.writeByte_pix (a : Word) (b : Byte) : (s.writeByte a b).pix = s.pix := rfl
@[simp] theorem State.writeByte_dt (a : Word) (b : Byte) : (s.writeByte a b).dt = s.dt := rfl
@[simp] theorem State.writeByte_st (a : Word) (b : Byte) : (s.writeByte a b).st = s.st := rfl
@[simp] theorem State.writeByte_keys (a : Word) (b : Byte) : (s.writeByte a b).keys = s.keys := rfl
@[simp] theorem State.writeByte_lastKey (a : Word) (b : Byte) : (s.writeByte a b).lastKey = s.lastKey := rfl
@[simp] theorem State.writeByte_running (a : Word) (b : Byte) : (s.writeByte a b).running = s.running := rfl
@[simp] theorem State.writeByte_cpuMode (a : Word) (b : Byte) : (s.writeByte a b).cpuMode = s.cpuMode := rfl
@[simp] theorem State.writeByte_straps (a : Word) (b : Byte) : (s.writeByte a b).straps = s.straps := rfl
@[simp] theorem State.writeByte_draws (a : Word) (b : Byte) : (s.writeByte a b).draws = s.draws := rfl
@[simp] theorem State.writeByte_turns (a : Word) (b : Byte) : (s.writeByte a b).turns = s.turns := rfl
@[simp] theorem State.writeByte_turnsDrawn (a : Word) (b : Byte) : (s.writeByte a b).turnsDrawn = s.turnsDrawn := rfl
@[simp] theorem State.writeByte_reg (a : Word) (b : Byte) (y : RegNum) : (s.writeByte a b).reg y = s.reg y := rfl
@[simp] theorem State.writeByte_pixel (a : Word) (b : Byte) (r : Fin 32) (q : Fin 64) : (s.writeByte a b).pixel r q = s.pixel r q := rfl
@[simp] theorem State.writeByte_top (a : Word) (b : Byte) : (s.writeByte a b).top = s.top := rfl

@[simp] theorem State.push_v (w : Word) : (s.push w).v = s.v := rfl
@[simp] theorem State.push_i (w : Word) : (s.push w).i = s.i := rfl
@[simp] theorem State.push_pc (w : Word) : (s.push w).pc = s.pc := rfl
@[simp] theorem State.push_sp (w : Word) : (s.push w).sp = s.sp + 1#8 := rfl
@[simp] theorem State.push_stack (w : Word) : (s.push w).stack = s.stack.set (stackIndex (s.sp + 1#8)) w := rfl
@[simp] theorem State.push_mem (w : Word) : (s.push w).mem = s.mem := rfl
@[simp] theorem State.push_pix (w : Word) : (s.push w).pix = s.pix := rfl
@[simp] theorem State.push_dt (w : Word) : (s.push w).dt = s.dt := rfl
@[simp] theorem State.push_st (w : Word) : (s.push w).st = s.st := rfl
@[simp] theorem State.push_keys (w : Word) : (s.push w).keys = s.keys := rfl
@[simp] theorem State.push_lastKey (w : Word) : (s.push w).lastKey = s.lastKey := rfl
@[simp] theorem State.push_running (w : Word) : (s.push w).running = s.running := rfl
@[simp] theorem State.push_cpuMode (w : Word) : (s.push w).cpuMode = s.cpuMode := rfl
@[simp] theorem State.push_straps (w : Word) : (s.push w).straps = s.straps := rfl
@[simp] theorem State.push_draws (w : Word) : (s.push w).draws = s.draws := rfl
@[simp] theorem State.push_turns (w : Word) : (s.push w).turns = s.turns := rfl
@[simp] theorem State.push_turnsDrawn (w : Word) : (s.push w).turnsDrawn = s.turnsDrawn := rfl
@[simp] theorem State.push_reg (w : Word) (y : RegNum) : (s.push w).reg y = s.reg y := rfl
@[simp] theorem State.push_readByte (w : Word) (adr : Word) : (s.push w).readByte adr = s.readByte adr := rfl
@[simp] theorem State.push_pixel (w : Word) (r : Fin 32) (q : Fin 64) : (s.push w).pixel r q = s.pixel r q := rfl

@[simp] theorem State.drop_v : (s.drop).v = s.v := rfl
@[simp] theorem State.drop_i : (s.drop).i = s.i := rfl
@[simp] theorem State.drop_pc : (s.drop).pc = s.pc := rfl
@[simp] theorem State.drop_sp : (s.drop).sp = s.sp - 1#8 := rfl
@[simp] theorem State.drop_stack : (s.drop).stack = s.stack := rfl
@[simp] theorem State.drop_mem : (s.drop).mem = s.mem := rfl
@[simp] theorem State.drop_pix : (s.drop).pix = s.pix := rfl
@[simp] theorem State.drop_dt : (s.drop).dt = s.dt := rfl
@[simp] theorem State.drop_st : (s.drop).st = s.st := rfl
@[simp] theorem State.drop_keys : (s.drop).keys = s.keys := rfl
@[simp] theorem State.drop_lastKey : (s.drop).lastKey = s.lastKey := rfl
@[simp] theorem State.drop_running : (s.drop).running = s.running := rfl
@[simp] theorem State.drop_cpuMode : (s.drop).cpuMode = s.cpuMode := rfl
@[simp] theorem State.drop_straps : (s.drop).straps = s.straps := rfl
@[simp] theorem State.drop_draws : (s.drop).draws = s.draws := rfl
@[simp] theorem State.drop_turns : (s.drop).turns = s.turns := rfl
@[simp] theorem State.drop_turnsDrawn : (s.drop).turnsDrawn = s.turnsDrawn := rfl
@[simp] theorem State.drop_reg (y : RegNum) : (s.drop).reg y = s.reg y := rfl
@[simp] theorem State.drop_readByte (adr : Word) : (s.drop).readByte adr = s.readByte adr := rfl
@[simp] theorem State.drop_pixel (r : Fin 32) (q : Fin 64) : (s.drop).pixel r q = s.pixel r q := rfl

@[simp] theorem State.setDt_v (b : Byte) : (s.setDt b).v = s.v := rfl
@[simp] theorem State.setDt_i (b : Byte) : (s.setDt b).i = s.i := rfl
@[simp] theorem State.setDt_pc (b : Byte) : (s.setDt b).pc = s.pc := rfl
@[simp] theorem State.setDt_sp (b : Byte) : (s.setDt b).sp = s.sp := rfl
@[simp] theorem State.setDt_stack (b : Byte) : (s.setDt b).stack = s.stack := rfl
@[simp] theorem State.setDt_mem (b : Byte) : (s.setDt b).mem = s.mem := rfl
@[simp] theorem State.setDt_pix (b : Byte) : (s.setDt b).pix = s.pix := rfl
@[simp] theorem State.setDt_dt (b : Byte) : (s.setDt b).dt = b := rfl
@[simp] theorem State.setDt_st (b : Byte) : (s.setDt b).st = s.st := rfl
@[simp] theorem State.setDt_keys (b : Byte) : (s.setDt b).keys = s.keys := rfl
@[simp] theorem State.setDt_lastKey (b : Byte) : (s.setDt b).lastKey = s.lastKey := rfl
@[simp] theorem State.setDt_running (b : Byte) : (s.setDt b).running = s.running := rfl
@[simp] theorem State.setDt_cpuMode (b : Byte) : (s.setDt b).cpuMode = s.cpuMode := rfl
@[simp] theorem State.setDt_straps (b : Byte) : (s.setDt b).straps = s.straps := rfl
@[simp] theorem State.setDt_draws (b : Byte) : (s.setDt b).draws = s.draws := rfl
@[simp] theorem State.setDt_turns (b : Byte) : (s.setDt b).turns = s.turns := rfl
@[simp] theorem State.setDt_turnsDrawn (b : Byte) : (s.setDt b).turnsDrawn = s.turnsDrawn := rfl
@[simp] theorem State.setDt_reg (b : Byte) (y : RegNum) : (s.setDt b).reg y = s.reg y := rfl
@[simp] theorem State.setDt_readByte (b : Byte) (adr : Word) : (s.setDt b).readByte adr = s.readByte adr := rfl
@[simp] theorem State.setDt_pixel (b : Byte) (r : Fin 32) (q : Fin 64) : (s.setDt b).pixel r q = s.pixel r q := rfl
@[simp] theorem State.setDt_top (b : Byte) : (s.setDt b).top = s.top := rfl

@[simp] theorem State.setSt_v (b : Byte) : (s.setSt b).v = s.v := rfl
@[simp] theorem State.setSt_i (b : Byte) : (s.setSt b).i = s.i := rfl
@[simp] theorem State.setSt_pc (b : Byte) : (s.setSt b).pc = s.pc := rfl
@[simp] theorem State.setSt_sp (b : Byte) : (s.setSt b).sp = s.sp := rfl
@[simp] theorem State.setSt_stack (b : Byte) : (s.setSt b).stack = s.stack := rfl
@[simp] theorem State.setSt_mem (b : Byte) : (s.setSt b).mem = s.mem := rfl
@[simp] theorem State.setSt_pix (b : Byte) : (s.setSt b).pix = s.pix := rfl
@[simp] theorem State.setSt_dt (b : Byte) : (s.setSt b).dt = s.dt := rfl
@[simp] theorem State.setSt_st (b : Byte) : (s.setSt b).st = b := rfl
@[simp] theorem State.setSt_keys (b : Byte) : (s.setSt b).keys = s.keys := rfl
@[simp] theorem State.setSt_lastKey (b : Byte) : (s.setSt b).lastKey = s.lastKey := rfl
@[simp] theorem State.setSt_running (b : Byte) : (s.setSt b).running = s.running := rfl
@[simp] theorem State.setSt_cpuMode (b : Byte) : (s.setSt b).cpuMode = s.cpuMode := rfl
@[simp] theorem State.setSt_straps (b : Byte) : (s.setSt b).straps = s.straps := rfl
@[simp] theorem State.setSt_draws (b : Byte) : (s.setSt b).draws = s.draws := rfl
@[simp] theorem State.setSt_turns (b : Byte) : (s.setSt b).turns = s.turns := rfl
@[simp] theorem State.setSt_turnsDrawn (b : Byte) : (s.setSt b).turnsDrawn = s.turnsDrawn := rfl
@[simp] theorem State.setSt_reg (b : Byte) (y : RegNum) : (s.setSt b).reg y = s.reg y := rfl
@[simp] theorem State.setSt_readByte (b : Byte) (adr : Word) : (s.setSt b).readByte adr = s.readByte adr := rfl
@[simp] theorem State.setSt_pixel (b : Byte) (r : Fin 32) (q : Fin 64) : (s.setSt b).pixel r q = s.pixel r q := rfl
@[simp] theorem State.setSt_top (b : Byte) : (s.setSt b).top = s.top := rfl

@[simp] theorem State.setPix_v (d : Display) : (s.setPix d).v = s.v := rfl
@[simp] theorem State.setPix_i (d : Display) : (s.setPix d).i = s.i := rfl
@[simp] theorem State.setPix_pc (d : Display) : (s.setPix d).pc = s.pc := rfl
@[simp] theorem State.setPix_sp (d : Display) : (s.setPix d).sp = s.sp := rfl
@[simp] theorem State.setPix_stack (d : Display) : (s.setPix d).stack = s.stack := rfl
@[simp] theorem State.setPix_mem (d : Display) : (s.setPix d).mem = s.mem := rfl
@[simp] theorem State.setPix_pix (d : Display) : (s.setPix d).pix = d := rfl
@[simp] theorem State.setPix_dt (d : Display) : (s.setPix d).dt = s.dt := rfl
@[simp] theorem State.setPix_st (d : Display) : (s.setPix d).st = s.st := rfl
@[simp] theorem State.setPix_keys (d : Display) : (s.setPix d).keys = s.keys := rfl
@[simp] theorem State.setPix_lastKey (d : Display) : (s.setPix d).lastKey = s.lastKey := rfl
@[simp] theorem State.setPix_running (d : Display) : (s.setPix d).running = s.running := rfl
@[simp] theorem State.setPix_cpuMode (d : Display) : (s.setPix d).cpuMode = s.cpuMode := rfl
@[simp] theorem State.setPix_straps (d : Display) : (s.setPix d).straps = s.straps := rfl
@[simp] theorem State.setPix_draws (d : Display) : (s.setPix d).draws = s.draws := rfl
@[simp] theorem State.setPix_turns (d : Display) : (s.setPix d).turns = s.turns := rfl
@[simp] theorem State.setPix_turnsDrawn (d : Display) : (s.setPix d).turnsDrawn = s.turnsDrawn := rfl
@[simp] theorem State.setPix_reg (d : Display) (y : RegNum) : (s.setPix d).reg y = s.reg y := rfl
@[simp] theorem State.setPix_readByte (d : Display) (adr : Word) : (s.setPix d).readByte adr = s.readByte adr := rfl
@[simp] theorem State.setPix_top (d : Display) : (s.setPix d).top = s.top := rfl

@[simp] theorem State.setLastKey_v (k : Option KeyCode) : (s.setLastKey k).v = s.v := rfl
@[simp] theorem State.setLastKey_i (k : Option KeyCode) : (s.setLastKey k).i = s.i := rfl
@[simp] theorem State.setLastKey_pc (k : Option KeyCode) : (s.setLastKey k).pc = s.pc := rfl
@[simp] theorem State.setLastKey_sp (k : Option KeyCode) : (s.setLastKey k).sp = s.sp := rfl
@[simp] theorem State.setLastKey_stack (k : Option KeyCode) : (s.setLastKey k).stack = s.stack := rfl
@[simp] theorem State.setLastKey_mem (k : Option KeyCode) : (s.setLastKey k).mem = s.mem := rfl
@[simp] theorem State.setLastKey_pix (k : Option KeyCode) : (s.setLastKey k).pix = s.pix := rfl
@[simp] theorem State.setLastKey_dt (k : Option KeyCode) : (s.setLastKey k).dt = s.dt := rfl
@[simp] theorem State.setLastKey_st (k : Option KeyCode) : (s.setLastKey k).st = s.st := rfl
@[simp] theorem State.setLastKey_keys (k : Option KeyCode) : (s.setLastKey k).keys = s.keys := rfl
@[simp] theorem State.setLastKey_lastKey (k : Option KeyCode) : (s.setLastKey k).lastKey = k := rfl
@[simp] theorem State.setLastKey_running (k : Option KeyCode) : (s.setLastKey k).running = s.running := rfl
@[simp] theorem State.setLastKey_cpuMode (k : Option KeyCode) : (s.setLastKey k).cpuMode = s.cpuMode := rfl
@[simp] theorem State.setLastKey_straps (k : Option KeyCode) : (s.setLastKey k).straps = s.straps := rfl
@[simp] theorem State.setLastKey_draws (k : Option KeyCode) : (s.setLastKey k).draws = s.draws := rfl
@[simp] theorem State.setLastKey_turns (k : Option KeyCode) : (s.setLastKey k).turns = s.turns := rfl
@[simp] theorem State.setLastKey_turnsDrawn (k : Option KeyCode) : (s.setLastKey k).turnsDrawn = s.turnsDrawn := rfl
@[simp] theorem State.setLastKey_reg (k : Option KeyCode) (y : RegNum) : (s.setLastKey k).reg y = s.reg y := rfl
@[simp] theorem State.setLastKey_readByte (k : Option KeyCode) (adr : Word) : (s.setLastKey k).readByte adr = s.readByte adr := rfl
@[simp] theorem State.setLastKey_pixel (k : Option KeyCode) (r : Fin 32) (q : Fin 64) : (s.setLastKey k).pixel r q = s.pixel r q := rfl
@[simp] theorem State.setLastKey_top (k : Option KeyCode) : (s.setLastKey k).top = s.top := rfl

@[simp] theorem State.setMode_v (m : CpuMode) : (s.setMode m).v = s.v := rfl
@[simp] theorem State.setMode_i (m : CpuMode) : (s.setMode m).i = s.i := rfl
@[simp] theorem State.setMode_pc (m : CpuMode) : (s.setMode m).pc = s.pc := rfl
@[simp] theorem State.setMode_sp (m : CpuMode) : (s.setMode m).sp = s.sp := rfl
@[simp] theorem State.setMode_stack (m : CpuMode) : (s.setMode m).stack = s.stack := rfl
@[simp] theorem State.setMode_mem (m : CpuMode) : (s.setMode m).mem = s.mem := rfl
@[simp] theorem State.setMode_pix (m : CpuMode) : (s.setMode m).pix = s.pix := rfl
@[simp] theorem State.setMode_dt (m : CpuMode) : (s.setMode m).dt = s.dt := rfl
@[simp] theorem State.setMode_st (m : CpuMode) : (s.setMode m).st = s.st := rfl
@[simp] theorem State.setMode_keys (m : CpuMode) : (s.setMode m).keys = s.keys := rfl
@[simp] theorem State.setMode_lastKey (m : CpuMode) : (s.setMode m).lastKey = s.lastKey := rfl
@[simp] theorem State.setMode_running (m : CpuMode) : (s.setMode m).running = s.running := rfl
@[simp] theorem State.setMode_cpuMode (m : CpuMode) : (s.setMode m).cpuMode = m := rfl
@[simp] theorem State.setMode_straps (m : CpuMode) : (s.setMode m).straps = s.straps := rfl
@[simp] theorem State.setMode_draws (m : CpuMode) : (s.setMode m).draws = s.draws := rfl
@[simp] theorem State.setMode_turns (m : CpuMode) : (s.setMode m).turns = s.turns := rfl
@[simp] theorem State.setMode_turnsDrawn (m : CpuMode) : (s.setMode m).turnsDrawn = s.turnsDrawn := rfl
@[simp] theorem State.setMode_reg (m : CpuMode) (y : RegNum) : (s.setMode m).reg y = s.reg y := rfl
@[simp] theorem State.setMode_readByte (m : CpuMode) (adr : Word) : (s.setMode m).readByte adr = s.readByte adr := rfl
@[simp] theorem State.setMode_pixel (m : CpuMode) (r : Fin 32) (q : Fin 64) : (s.setMode m).pixel r q = s.pixel r q := rfl
@[simp] theorem State.setMode_top (m : CpuMode) : (s.setMode m).top = s.top := rfl

@[simp] theorem State.countDraw_v : (s.countDraw).v = s.v := rfl
@[simp] theorem State.countDraw_i : (s.countDraw).i = s.i := rfl
@[simp] theorem State.countDraw_pc : (s.countDraw).pc = s.pc := rfl
@[simp] theorem State.countDraw_sp : (s.countDraw).sp = s.sp := rfl
@[simp] theorem State.countDraw_stack : (s.countDraw).stack = s.stack := rfl
@[simp] theorem State.countDraw_mem : (s.countDraw).mem = s.mem := rfl
@[simp] theorem State.countDraw_pix : (s.countDraw).pix = s.pix := rfl
@[simp] theorem State.countDraw_dt : (s.countDraw).dt = s.dt := rfl
@[simp] theorem State.countDraw_st : (s.countDraw).st = s.st := rfl
@[simp] theorem State.countDraw_keys : (s.countDraw).keys = s.keys := rfl
@[simp] theorem State.countDraw_lastKey : (s.countDraw).lastKey = s.lastKey := rfl
@[simp] theorem State.countDraw_running : (s.countDraw).running = s.running := rfl
@[simp] theorem State.countDraw_cpuMode : (s.countDraw).cpuMode = s.cpuMode := rfl
@[simp] theorem State.countDraw_straps : (s.countDraw).straps = s.straps := rfl
@[simp] theorem State.countDraw_draws : (s.countDraw).draws = s.draws + 1 := rfl
@[simp] theorem State.countDraw_turns : (s.countDraw).turns = s.turns := rfl
@[simp] theorem State.countDraw_turnsDrawn : (s.countDraw).turnsDrawn = s.turnsDrawn := rfl
@[simp] theorem State.countDraw_reg (y : RegNum) : (s.countDraw).reg y = s.reg y := rfl
@[simp] theorem State.countDraw_readByte (adr : Word) : (s.countDraw).readByte adr = s.readByte adr := rfl
@[simp] theorem State.countDraw_pixel (r : Fin 32) (q : Fin 64) : (s.countDraw).pixel r q = s.pixel r q := rfl
@[simp] theorem State.countDraw_top : (s.countDraw).top = s.top := rfl

end Sys2Proof.Machine
end

