-- ==== Sys2Proof/Laws/Ops.lean ====
section
/-! SUPPORT. What each shared operation over registers, memory and stack does, said once. -/

namespace Sys2Proof.Machine

/-! ### Registers -/

@[simp] theorem State.setReg_reg (s : State) (x y : RegNum) (b : Byte) :
    (s.setReg x b).reg y = if y = x then b else s.reg y := by
  simp only [State.reg, State.setReg, Vector.getElem_set, BitVec.toNat_inj]
  by_cases h : y = x
  · simp [h]
  · simp [h, Ne.symm h]

theorem State.flagThenReg_reg (s : State) (f b : Byte) (x y : RegNum) :
    (s.flagThenReg f x b).reg y = if y = x then b else if y = 0xF#4 then f else s.reg y := by
  simp [State.flagThenReg, State.setFlag]

theorem State.regThenFlag_reg (s : State) (f b : Byte) (x y : RegNum) :
    (s.regThenFlag x b f).reg y = if y = 0xF#4 then f else if y = x then b else s.reg y := by
  simp [State.regThenFlag, State.setFlag]

/-- Two states with the same register contents have the same register file. -/
theorem reg_ext {s t : State} (h : ∀ r, t.reg r = s.reg r) : t.v = s.v := by
  apply Vector.ext
  intro j hj
  have := h (BitVec.ofNat 4 j)
  simpa [State.reg, Nat.mod_eq_of_lt hj] using this

/-! ### Memory -/

theorem memIndex_lt (a : Word) : memIndex a < 4096 := Nat.mod_lt _ (by decide)

theorem cellFor_get (k j : Nat) (b : Byte) (m : Memory) (h : j = k → Memory.get m j = unlistedByte j) :
    Memory.get (cellFor k b ++ m) j = if j = k then b else Memory.get m j := by
  unfold cellFor
  by_cases hj : j = k
  · subst hj
    by_cases hb : b = unlistedByte j
    · rw [if_pos hb, if_pos rfl, List.nil_append, h rfl, hb]
    · rw [if_neg hb, if_pos rfl, List.singleton_append, Memory.get, if_pos rfl]
  · rw [if_neg hj]
    by_cases hb : b = unlistedByte k
    · rw [if_pos hb, List.nil_append]
    · rw [if_neg hb, List.singleton_append, Memory.get, if_neg (Ne.symm hj)]

/-- An address below the range of a canonical list is not listed. -/
theorem get_of_wfFrom {m : Memory} {lo j : Nat} (h : Memory.wfFrom lo m = true) (hj : j < lo) :
    Memory.get m j = unlistedByte j := by
  induction m generalizing lo with
  | nil => rfl
  | cons c m ih =>
    obtain ⟨k, b⟩ := c
    simp only [Memory.wfFrom, Bool.and_eq_true, decide_eq_true_eq] at h
    have hk : k ≠ j := by omega
    simp [Memory.get, hk, ih h.2 (by omega)]

/-- A read after a write: the written byte at its entry, every other entry as before. -/
theorem get_put {m : Memory} {lo : Nat} (h : Memory.wfFrom lo m = true) (k j : Nat) (b : Byte) :
    Memory.get (Memory.put m k b) j = if j = k then b else Memory.get m j := by
  induction m generalizing lo with
  | nil =>
    have := cellFor_get k j b [] (fun _ => rfl)
    simpa [Memory.put] using this
  | cons c m ih =>
    obtain ⟨i, a⟩ := c
    simp only [Memory.wfFrom, Bool.and_eq_true, decide_eq_true_eq] at h
    simp only [Memory.put]
    split
    · rename_i hik
      by_cases hji : i = j
      · have : j ≠ k := by omega
        simp [Memory.get, hji, this]
      · simp [Memory.get, hji, ih h.2]
    · split
      · rename_i hik
        subst hik
        rw [cellFor_get i j b m (fun e => get_of_wfFrom h.2 (by omega))]
        by_cases hj : j = i
        · rw [if_pos hj, if_pos hj]
        · rw [if_neg hj, if_neg hj, Memory.get, if_neg (Ne.symm hj)]
      · rw [cellFor_get k j b _ ?_]
        intro e
        have h1 : i ≠ j := by omega
        simp [Memory.get, h1, get_of_wfFrom h.2 (show j < i + 1 by omega)]

theorem wfFrom_mono {m : Memory} {lo lo' : Nat} (h : Memory.wfFrom lo m = true) (hl : lo' ≤ lo) :
    Memory.wfFrom lo' m = true := by
  cases m with
  | nil => rfl
  | cons c m =>
    obtain ⟨k, b⟩ := c
    simp only [Memory.wfFrom, Bool.and_eq_true, decide_eq_true_eq] at h ⊢
    exact ⟨⟨⟨by omega, h.1.1.2⟩, h.1.2⟩, h.2⟩

theorem cellFor_wf {m : Memory} {lo k : Nat} (b : Byte) (hm : Memory.wfFrom (k + 1) m = true) (hl : lo ≤ k)
    (hk : k < 4096) : Memory.wfFrom lo (cellFor k b ++ m) = true := by
  unfold cellFor
  split
  · exact wfFrom_mono hm (by omega)
  · rename_i hb
    simp [Memory.wfFrom, hb, hm, hl, hk]

/-- A write keeps the canonical form. -/
theorem put_wfFrom {m : Memory} {lo k : Nat} (h : Memory.wfFrom lo m = true) (hl : lo ≤ k) (hk : k < 4096) (b : Byte) :
    Memory.wfFrom lo (Memory.put m k b) = true := by
  induction m generalizing lo with
  | nil => simpa [Memory.put] using cellFor_wf (m := []) b rfl hl hk
  | cons c m ih =>
    obtain ⟨i, a⟩ := c
    have h0 := h
    simp only [Memory.wfFrom, Bool.and_eq_true, decide_eq_true_eq] at h
    simp only [Memory.put]
    split
    · rename_i hik
      simp only [Memory.wfFrom, Bool.and_eq_true, decide_eq_true_eq]
      exact ⟨h.1, ih h.2 (by omega)⟩
    · split
      · rename_i hik
        subst hik
        exact cellFor_wf b h.2 hl hk
      · refine cellFor_wf b ?_ hl hk
        simp only [Memory.wfFrom, Bool.and_eq_true, decide_eq_true_eq]
        exact ⟨⟨⟨by omega, h.1.1.2⟩, h.1.2⟩, h.2⟩

/-- `MemWrite` keeps the canonical form. -/
theorem writeByte_wf {s : State} (h : Memory.wf s.mem = true) (a : Word) (b : Byte) :
    Memory.wf (s.writeByte a b).mem = true :=
  put_wfFrom h (Nat.zero_le _) (memIndex_lt a) b

/-- `MemRead` after `MemWrite`: addresses that agree modulo 4096 reach the same entry (R40). -/
theorem writeByte_readByte {s : State} (h : Memory.wf s.mem = true) (a c : Word) (b : Byte) :
    (s.writeByte a b).readByte c = if memIndex c = memIndex a then b else s.readByte c :=
  get_put h _ _ _

/-- Canonical lists that hold the same bytes are equal. -/
theorem get_ext {m m' : Memory} {lo lo' : Nat} (h : Memory.wfFrom lo m = true) (h' : Memory.wfFrom lo' m' = true)
    (e : ∀ j, Memory.get m j = Memory.get m' j) : m = m' := by
  induction m generalizing lo m' lo' with
  | nil =>
    cases m' with
    | nil => rfl
    | cons c m' =>
      obtain ⟨k, b⟩ := c
      simp only [Memory.wfFrom, Bool.and_eq_true, decide_eq_true_eq] at h'
      have := e k
      simp only [Memory.get, if_pos] at this
      exact absurd this.symm h'.1.2
  | cons c m ih =>
    obtain ⟨k, b⟩ := c
    have h0 := h
    simp only [Memory.wfFrom, Bool.and_eq_true, decide_eq_true_eq] at h
    have get_head : Memory.get ((k, b) :: m) k = b := by simp [Memory.get]
    cases m' with
    | nil =>
      have := e k
      rw [get_head] at this
      exact absurd this h.1.2
    | cons c' m' =>
      obtain ⟨k', b'⟩ := c'
      have h0' := h'
      simp only [Memory.wfFrom, Bool.and_eq_true, decide_eq_true_eq] at h'
      have get_head' : Memory.get ((k', b') :: m') k' = b' := by simp [Memory.get]
      have kk : k = k' := by
        rcases Nat.lt_trichotomy k k' with hlt | heq | hgt
        · have h1 := e k
          rw [get_head] at h1
          have h2 : Memory.get ((k', b') :: m') k = unlistedByte k :=
            get_of_wfFrom (lo := k') (by simp [Memory.wfFrom, h'.1.1.2, h'.1.2, h'.2]) hlt
          exact absurd (h1.trans h2) h.1.2
        · exact heq
        · have h1 := e k'
          rw [get_head'] at h1
          have h2 : Memory.get ((k, b) :: m) k' = unlistedByte k' :=
            get_of_wfFrom (lo := k) (by simp [Memory.wfFrom, h.1.1.2, h.1.2, h.2]) hgt
          exact absurd (h1.symm.trans h2) h'.1.2
      subst kk
      have bb : b = b' := by
        have := e k
        rwa [get_head, get_head'] at this
      subst bb
      congr 1
      refine ih h.2 h'.2 fun j => ?_
      by_cases hj : k = j
      · subst hj
        rw [get_of_wfFrom h.2 (by omega), get_of_wfFrom h'.2 (by omega)]
      · have := e j
        simpa [Memory.get, hj] using this

/-! ### Stack -/

/-- The entry just pushed is the one at the new SP (R81, R83). -/
@[simp] theorem State.push_top (s : State) (w : Word) : (s.push w).top = w := by
  simp [State.top, State.push]

/-! ### Operand forms -/

/-- The stack entry of a pushed address: the one at the new SP, every other entry as before (R83, D2). -/
theorem stackIndex_succ (sp : Byte) : (stackIndex (sp + 1#8)).val = (sp.toNat + 1) % 16 := by
  simp [stackIndex, BitVec.toNat_add]

/-- A key test holds exactly of the code of a pressed key (R150, D11). -/
theorem keyPressed_iff (s : State) (a : Byte) :
    s.keyPressed a = true ↔ ∃ k : KeyCode, a.toNat = k.toNat ∧ s.keys[k.toNat] = true := by
  unfold State.keyPressed
  split
  · rename_i h
    constructor
    · exact fun q => ⟨BitVec.ofNat 4 a.toNat, by rw [BitVec.toNat_ofNat]; omega, by simpa [Nat.mod_eq_of_lt h] using q⟩
    · rintro ⟨k, e, q⟩
      simpa [e] using q
  · rename_i h
    simp only [Bool.false_eq_true, false_iff, not_exists, not_and]
    intro k e
    have := k.isLt
    omega

/-- Where I stands after a block move (R124, R125). -/
theorem cursorAfter_toNat (s : State) (x : RegNum) :
    (s.cursorAfter x).toNat = (s.i.toNat + if s.straps.variant = .chip8 then x.toNat + 1 else 0) % 65536 := by
  have := s.i.isLt
  unfold State.cursorAfter
  split <;> rename_i h <;> simp [h, State.effAddr, BitVec.toNat_add]
  omega

/-- The source of a shift (R108, R110). -/
theorem shiftSource_eq (s : State) (x y : RegNum) :
    s.shiftSource x y = if s.straps.variant = .chip8 then s.reg y else s.reg x := by
  unfold State.shiftSource
  cases s.straps.variant <;> rfl

/-! ### Flags -/

theorem add_carry_iff (a b : Byte) : (a + b).toNat < b.toNat ↔ 256 ≤ a.toNat + b.toNat := by
  have ha := a.isLt
  have hb := b.isLt
  rw [BitVec.toNat_add]
  omega

/-- VF of 8xy4 is the carry out of bit 7 (R106). -/
theorem carryOut_eq (a b : Byte) : carryOut a b = if 256 ≤ a.toNat + b.toNat then 0x01#8 else 0x00#8 := by
  simp only [carryOut, flagByte, add_carry_iff, decide_eq_true_eq]

end Sys2Proof.Machine
end

