-- ==== Sys2Proof/Laws/Blocks.lean ====
section
/-! SUPPORT. What the block moves of Fx55 and Fx65 do, said once. -/

namespace Sys2Proof.Machine

/-- How far the entry of an address lies above I's entry, modulo 4096. -/
def State.offset (s : State) (a : Word) : Nat := (memIndex a + 4096 - memIndex s.i) % 4096

theorem memIndex_effAddr (s : State) (k : Nat) : memIndex (s.effAddr k) = (memIndex s.i + k) % 4096 := by
  simp only [memIndex, State.effAddr, BitVec.toNat_add, BitVec.toNat_ofNat]
  omega

theorem memIndex_eq_effAddr_iff (s : State) (a : Word) {k : Nat} (hk : k < 4096) :
    memIndex a = memIndex (s.effAddr k) ↔ s.offset a = k := by
  have ha := memIndex_lt a
  have hi := memIndex_lt s.i
  rw [memIndex_effAddr, State.offset]
  omega

/-- A block store changes memory alone. -/
theorem storeRegs_frame (s : State) (n : Nat) :
    s.storeRegs (List.range n) = { s with mem := (s.storeRegs (List.range n)).mem } := by
  induction n with
  | zero => rfl
  | succ n ih =>
    have e : s.storeRegs (List.range (n + 1))
        = (s.storeRegs (List.range n)).writeByte (s.effAddr n) (s.reg (BitVec.ofNat 4 n)) := by
      simp [State.storeRegs, List.range_succ, List.foldl_append]
    rw [e, ih]
    rfl

/-- A block store keeps the canonical form. -/
theorem storeRegs_wf {s : State} (h : Memory.wf s.mem = true) (n : Nat) :
    Memory.wf (s.storeRegs (List.range n)).mem = true := by
  induction n with
  | zero => exact h
  | succ n ih =>
    simp only [State.storeRegs, List.range_succ, List.foldl_append, List.foldl_cons, List.foldl_nil]
    exact writeByte_wf ih _ _

/-- A block store writes register r at I + r for every r below n, and no other byte (R124). -/
theorem storeRegs_readByte {s : State} (h : Memory.wf s.mem = true) {n : Nat} (hn : n ≤ 16) (a : Word) :
    (s.storeRegs (List.range n)).readByte a
      = if s.offset a < n then s.reg (BitVec.ofNat 4 (s.offset a)) else s.readByte a := by
  induction n with
  | zero => simp [State.storeRegs]
  | succ n ih =>
    have e : s.storeRegs (List.range (n + 1))
        = (s.storeRegs (List.range n)).writeByte (s.effAddr n) (s.reg (BitVec.ofNat 4 n)) := by
      simp [State.storeRegs, List.range_succ, List.foldl_append]
    rw [e, writeByte_readByte (storeRegs_wf h n), ih (by omega)]
    by_cases hk : s.offset a = n
    · rw [if_pos ((memIndex_eq_effAddr_iff s a (by omega)).2 hk), if_pos (by omega), hk]
    · rw [if_neg (fun q => hk ((memIndex_eq_effAddr_iff s a (by omega)).1 q))]
      by_cases hl : s.offset a < n
      · rw [if_pos hl, if_pos (by omega)]
      · rw [if_neg hl, if_neg (by omega)]

/-- A block load changes the register file alone. -/
theorem loadRegs_frame (s : State) (n : Nat) :
    s.loadRegs (List.range n) = { s with v := (s.loadRegs (List.range n)).v } := by
  induction n with
  | zero => rfl
  | succ n ih =>
    have e : s.loadRegs (List.range (n + 1))
        = (s.loadRegs (List.range n)).setReg (BitVec.ofNat 4 n) (s.readByte (s.effAddr n)) := by
      simp [State.loadRegs, List.range_succ, List.foldl_append]
    rw [e, ih]
    rfl

/-- A block load puts the byte at I + r into register r for every r below n, and leaves the others (R125). -/
theorem loadRegs_reg (s : State) {n : Nat} (hn : n ≤ 16) (y : RegNum) :
    (s.loadRegs (List.range n)).reg y = if y.toNat < n then s.readByte (s.effAddr y.toNat) else s.reg y := by
  induction n with
  | zero => simp [State.loadRegs]
  | succ n ih =>
    have e : s.loadRegs (List.range (n + 1))
        = (s.loadRegs (List.range n)).setReg (BitVec.ofNat 4 n) (s.readByte (s.effAddr n)) := by
      simp [State.loadRegs, List.range_succ, List.foldl_append]
    rw [e, State.setReg_reg, ih (by omega)]
    have hy := y.isLt
    by_cases hk : y.toNat = n
    · have : y = BitVec.ofNat 4 n := by
        apply BitVec.eq_of_toNat_eq
        rw [BitVec.toNat_ofNat]
        omega
      rw [if_pos this, if_pos (by omega), hk]
    · have : y ≠ BitVec.ofNat 4 n := by
        intro q
        apply hk
        rw [q, BitVec.toNat_ofNat]
        omega
      rw [if_neg this]
      by_cases hl : y.toNat < n
      · rw [if_pos hl, if_pos (by omega)]
      · rw [if_neg hl, if_neg (by omega)]

end Sys2Proof.Machine
end

