-- ==== Sys2Proof/Laws/Boot.lean ====
section
/-! SUPPORT. The memory that the loader builds: canonical, and holding the image it was given. -/

namespace Sys2Proof.Machine

theorem cells_get (f : Nat → Byte) (lo n k : Nat) :
    Memory.get ((List.range' lo n).flatMap fun j => cellFor j (f j)) k
      = if lo ≤ k ∧ k < lo + n then f k else unlistedByte k := by
  induction n generalizing lo with
  | zero => rw [if_neg (by omega)]; rfl
  | succ n ih =>
    rw [List.range'_succ, List.flatMap_cons, cellFor_get lo k (f lo) _ ?_, ih]
    · by_cases h : k = lo
      · rw [if_pos h, if_pos (by omega), h]
      · rw [if_neg h]
        by_cases hk : lo + 1 ≤ k ∧ k < lo + 1 + n
        · rw [if_pos hk, if_pos (by omega)]
        · rw [if_neg hk, if_neg (by omega)]
    · intro e
      rw [ih, if_neg (by omega)]

theorem cells_wfFrom (f : Nat → Byte) (lo n : Nat) (h : lo + n ≤ 4096) :
    Memory.wfFrom lo ((List.range' lo n).flatMap fun j => cellFor j (f j)) = true := by
  induction n generalizing lo with
  | zero => rfl
  | succ n ih =>
    rw [List.range'_succ, List.flatMap_cons]
    exact cellFor_wf (f lo) (ih (lo + 1) (by omega)) (le_refl lo) (by omega)

/-- The built memory holds the image. -/
theorem ofImage_get (f : Nat → Byte) {k : Nat} (hk : k < 4096) : Memory.get (Memory.ofImage f) k = f k := by
  rw [Memory.ofImage, List.range_eq_range', cells_get, if_pos (by omega)]

/-- The built memory is canonical. -/
theorem ofImage_wf (f : Nat → Byte) : Memory.wf (Memory.ofImage f) = true := by
  rw [Memory.ofImage, List.range_eq_range']
  exact cells_wfFrom f 0 4096 (le_refl _)

end Sys2Proof.Machine
end

