-- ==== Sys2Proof/Laws/Compositor.lean ====
section
/-! SUPPORT. What a blit does, said once and pixel by pixel (R132 to R137): `blit_toggles`. -/

namespace Sys2Proof.Machine

/-- `b'` is `b` with exactly the pixels of `T` toggled, each from its status in `b`, and the collision flag accordingly. -/
structure Toggles (fadeMax : Nat) (T : Fin 32 → Fin 64 → Prop) (b b' : Blit) : Prop where
  hit : ∀ r c, T r c → b'.pix[r][c] = togglePixel fadeMax b.pix[r][c]
  miss : ∀ r c, ¬ T r c → b'.pix[r][c] = b.pix[r][c]
  flag : b'.collided = true ↔ b.collided = true ∨ ∃ r c, T r c ∧ b.pix[r][c].on = true

theorem Toggles.refl (m : Nat) (b : Blit) : Toggles m (fun _ _ => False) b b :=
  ⟨fun _ _ h => h.elim, fun _ _ _ => rfl, by simp⟩

theorem Toggles.congr {m : Nat} {T T' : Fin 32 → Fin 64 → Prop} {b b' : Blit} (h : Toggles m T b b')
    (e : ∀ r c, T r c ↔ T' r c) : Toggles m T' b b' := by
  have : T = T' := by
    funext r c
    exact propext (e r c)
  exact this ▸ h

/-- Two toggles of disjoint pixel sets make one toggle of their union. -/
theorem Toggles.trans {m : Nat} {T U : Fin 32 → Fin 64 → Prop} {b b' b'' : Blit} (h : Toggles m T b b')
    (h' : Toggles m U b' b'') (d : ∀ r c, T r c → ¬ U r c) : Toggles m (fun r c => T r c ∨ U r c) b b'' := by
  refine ⟨fun r c ho => ?_, fun r c ho => ?_, ?_⟩
  · rcases ho with ht | hu
    · rw [h'.miss r c (d r c ht), h.hit r c ht]
    · rw [h'.hit r c hu, h.miss r c (fun ht => d r c ht hu)]
  · rw [h'.miss r c (fun q => ho (.inr q)), h.miss r c (fun q => ho (.inl q))]
  · rw [h'.flag, h.flag]
    constructor
    · rintro ((hb | ⟨r, c, ht, ho⟩) | ⟨r, c, hu, ho⟩)
      · exact .inl hb
      · exact .inr ⟨r, c, .inl ht, ho⟩
      · exact .inr ⟨r, c, .inr hu, by rwa [h.miss r c (fun ht => d r c ht hu)] at ho⟩
    · rintro (hb | ⟨r, c, ht | hu, ho⟩)
      · exact .inl (.inl hb)
      · exact .inl (.inr ⟨r, c, ht, ho⟩)
      · exact .inr ⟨r, c, hu, by rwa [h.miss r c (fun ht => d r c ht hu)]⟩

theorem setPixel_get (d : Display) (r r' : Fin 32) (c c' : Fin 64) (p : Pixel) :
    (Display.setPixel d r c p)[r'][c'] = if r' = r ∧ c' = c then p else d[r'][c'] := by
  have row : (Display.setPixel d r c p)[r'] = if r' = r then d[r].set c p else d[r'] := by
    simp only [Display.setPixel, Fin.getElem_fin, Vector.getElem_set, Fin.val_inj, eq_comm (a := r)]
  rw [row]
  by_cases hr : r' = r
  · subst hr
    simp only [if_true, true_and, Fin.getElem_fin, Vector.getElem_set, Fin.val_inj, eq_comm (a := c)]
  · rw [if_neg hr, if_neg (fun q => hr q.1)]

theorem plot_toggles (m : Nat) (r : Fin 32) (c : Fin 64) (b : Blit) :
    Toggles m (fun r' c' => r' = r ∧ c' = c) b (b.plot m r c) := by
  refine ⟨fun r' c' h => ?_, fun r' c' h => ?_, ?_⟩
  · obtain ⟨rfl, rfl⟩ := h
    simp only [Blit.plot]
    rw [setPixel_get, if_pos ⟨rfl, rfl⟩]
  · simp only [Blit.plot, setPixel_get, if_neg h]
  · simp [Blit.plot]

theorem bit_toggles (st : Straps) (byte : Byte) (x0 : Nat) (r : Fin 32) (b : Blit) (col : Nat) :
    Toggles st.fadeMax (fun r' c' => r' = r ∧ edgeCol st.drawPolicy (x0 + col) = some c' ∧ spriteBit byte col = true) b
      (b.bit st byte x0 r col) := by
  unfold Blit.bit
  split
  · rename_i c hc
    split
    · rename_i hb
      refine (plot_toggles st.fadeMax r c b).congr fun r' c' => ?_
      simp only [hc, hb, Option.some.injEq, and_true]
      rw [eq_comm (a := c')]
    · rename_i hb
      exact (Toggles.refl st.fadeMax b).congr fun r' c' => by simp [hb]
  · rename_i hc
    exact (Toggles.refl st.fadeMax b).congr fun r' c' => by simp [hc]

/-- Distinct sprite columns land on distinct display columns (R139). -/
theorem edgeCol_inj {p : DrawPolicy} {x0 a b : Nat} {c : Fin 64} (ha : a < 64) (hb : b < 64)
    (ea : edgeCol p (x0 + a) = some c) (eb : edgeCol p (x0 + b) = some c) : a = b := by
  have key : ∀ k, edgeCol p (x0 + k) = some c → (x0 + k) % 64 = c.val := by
    intro k hk
    unfold edgeCol at hk
    split at hk
    · rename_i hlt
      have := congrArg (Option.map Fin.val) hk
      simp only [Option.map_some, Option.some.injEq] at this
      omega
    · cases p with
      | wrap =>
        have := congrArg (Option.map Fin.val) hk
        simpa using this
      | clip => simp at hk
  have h1 := key a ea
  have h2 := key b eb
  omega

/-- Distinct sprite rows land on distinct display rows (R139). -/
theorem edgeRow_inj {p : DrawPolicy} {y0 a b : Nat} {r : Fin 32} (ha : a < 32) (hb : b < 32)
    (ea : edgeRow p (y0 + a) = some r) (eb : edgeRow p (y0 + b) = some r) : a = b := by
  have key : ∀ k, edgeRow p (y0 + k) = some r → (y0 + k) % 32 = r.val := by
    intro k hk
    unfold edgeRow at hk
    split at hk
    · rename_i hlt
      have := congrArg (Option.map Fin.val) hk
      simp only [Option.map_some, Option.some.injEq] at this
      omega
    · cases p with
      | wrap =>
        have := congrArg (Option.map Fin.val) hk
        simpa using this
      | clip => simp at hk
  have h1 := key a ea
  have h2 := key b eb
  omega

theorem bits_toggle (st : Straps) (byte : Byte) (x0 : Nat) (r : Fin 32) (b : Blit) {n : Nat} (hn : n ≤ 8) :
    Toggles st.fadeMax
      (fun r' c' => r' = r ∧ ∃ col < n, edgeCol st.drawPolicy (x0 + col) = some c' ∧ spriteBit byte col = true) b
      ((List.range n).foldl (Blit.bit st byte x0 r) b) := by
  induction n with
  | zero => exact (Toggles.refl st.fadeMax b).congr fun r' c' => by simp
  | succ n ih =>
    rw [List.range_succ, List.foldl_append, List.foldl_cons, List.foldl_nil]
    refine ((ih (by omega)).trans (bit_toggles st byte x0 r _ n) ?_).congr fun r' c' => ?_
    · rintro r' c' ⟨-, col, hcol, e, -⟩ ⟨-, e', -⟩
      have := edgeCol_inj (by omega) (by omega) e e'
      omega
    · constructor
      · rintro (⟨hr, col, hcol, e⟩ | ⟨hr, e⟩)
        · exact ⟨hr, col, by omega, e⟩
        · exact ⟨hr, n, by omega, e⟩
      · rintro ⟨hr, col, hcol, e⟩
        by_cases h : col < n
        · exact .inl ⟨hr, col, h, e⟩
        · have : col = n := by omega
          exact .inr ⟨hr, this ▸ e⟩

/-- The pixels one sprite row toggles. -/
def lineCovers (st : Straps) (x0 y0 row : Nat) (byte : Byte) (r : Fin 32) (c : Fin 64) : Prop :=
  edgeRow st.drawPolicy (y0 + row) = some r ∧
    ∃ col < 8, edgeCol st.drawPolicy (x0 + col) = some c ∧ spriteBit byte col = true

theorem line_toggles (st : Straps) (x0 y0 : Nat) (b : Blit) (row : Nat) (byte : Byte) :
    Toggles st.fadeMax (lineCovers st x0 y0 row byte) b (b.line st x0 y0 row byte) := by
  unfold Blit.line
  split
  · rename_i r hr
    refine (bits_toggle st byte x0 r b (le_refl 8)).congr fun r' c' => ?_
    simp only [lineCovers, hr, Option.some.injEq]
    rw [eq_comm (a := r')]
  · rename_i hr
    exact (Toggles.refl st.fadeMax b).congr fun r' c' => by simp [lineCovers, hr]

theorem lines_toggle (st : Straps) (x0 y0 : Nat) (sprite : List Byte) :
    ∀ (row : Nat) (b : Blit), row + sprite.length ≤ 32 →
      Toggles st.fadeMax (fun r c => ∃ k, ∃ h : k < sprite.length, lineCovers st x0 y0 (row + k) sprite[k] r c) b
        (Blit.lines st x0 y0 sprite row b) := by
  induction sprite with
  | nil =>
    intro row b _
    exact (Toggles.refl st.fadeMax b).congr fun r c => by simp
  | cons byte rest ih =>
    intro row b hlen
    simp only [List.length_cons] at hlen
    refine ((line_toggles st x0 y0 b row byte).trans (ih (row + 1) _ (by omega)) ?_).congr fun r c => ?_
    · rintro r c ⟨er, -⟩ ⟨k, hk, er', -⟩
      have := edgeRow_inj (y0 := y0) (a := row) (b := row + 1 + k) (by omega) (by omega) er er'
      omega
    · constructor
      · rintro (h | ⟨k, hk, h⟩)
        · exact ⟨0, by simp, by simpa using h⟩
        · exact ⟨k + 1, by simpa using hk, by simpa [Nat.add_assoc, Nat.add_comm 1 k] using h⟩
      · rintro ⟨k, hk, h⟩
        cases k with
        | zero => exact .inl (by simpa using h)
        | succ k => exact .inr ⟨k, by simpa using hk, by simpa [Nat.add_assoc, Nat.add_comm 1 k] using h⟩

/-- A blit of at most 32 rows toggles exactly the pixels its sprite rows cover, and collides exactly where one of them was on. -/
theorem blit_toggles (st : Straps) (d : Display) (sprite : List Byte) (x0 y0 : Nat) (h : sprite.length ≤ 32) :
    Toggles st.fadeMax (fun r c => ∃ k, ∃ h : k < sprite.length, lineCovers st x0 y0 k sprite[k] r c)
      { pix := d, collided := false } (blit st d sprite x0 y0) :=
  (lines_toggle st x0 y0 sprite 0 _ (by simpa using h)).congr fun r c => by simp

/-- Decay, pixel by pixel (R141). -/
@[simp] theorem State.frame_pixel (s : State) (r : Fin 32) (c : Fin 64) :
    s.frame.pixel r c = decayPixel (s.pixel r c) := by
  simp [State.frame, State.setPix, State.pixel, decay]

/-- Every pixel of the blank grid (R29, R130). -/
@[simp] theorem blankDisplay_get (r : Fin 32) (c : Fin 64) : blankDisplay[(r : Nat)][(c : Nat)] = blankPixel := by
  simp [blankDisplay]

@[simp] theorem State.setPix_blank_pixel (s : State) (r : Fin 32) (c : Fin 64) :
    (s.setPix blankDisplay).pixel r c = blankPixel := by
  simp [State.pixel]

@[simp] theorem State.reset_pixel (r : Fin 32) (c : Fin 64) : State.reset.pixel r c = blankPixel := by
  simp [State.pixel, State.reset]

/-- The display rows a sprite row lands on, under either policy (R132 to R134). -/
theorem edgeRow_iff (p : DrawPolicy) (a : Nat) (r : Fin 32) :
    edgeRow p a = some r ↔ if p = .wrap then a % 32 = r.val else a = r.val := by
  have := r.isLt
  unfold edgeRow
  split <;> cases p <;> simp [Fin.ext_iff] <;> omega

/-- The display columns a sprite column lands on, under either policy (R132 to R134). -/
theorem edgeCol_iff (p : DrawPolicy) (a : Nat) (c : Fin 64) :
    edgeCol p a = some c ↔ if p = .wrap then a % 64 = c.val else a = c.val := by
  have := c.isLt
  unfold edgeCol
  split <;> cases p <;> simp [Fin.ext_iff] <;> omega

end Sys2Proof.Machine
end

