-- ==== Sys2Proof/Laws/Decode.lean ====
section
/-! SUPPORT. What the field extractors read from a word of each format (R61, R62). -/

namespace Sys2Proof

/-- A slice of a concatenation that lies in the less significant part. -/
theorem slice_append_low {a b : Nat} (u : BitVec a) (v : BitVec b) (start len : Nat) (h : start + len ≤ b) :
    (u ++ v).extractLsb' start len = v.extractLsb' start len := by
  apply BitVec.eq_of_getLsbD_eq
  intro j hj
  simp only [BitVec.getLsbD_extractLsb', BitVec.getLsbD_append, hj]
  rw [if_pos (by omega)]

/-- A slice of a concatenation that lies in the more significant part. -/
theorem slice_append_high {a b : Nat} (u : BitVec a) (v : BitVec b) (start len : Nat) (h : b ≤ start) :
    (u ++ v).extractLsb' start len = u.extractLsb' (start - b) len := by
  apply BitVec.eq_of_getLsbD_eq
  intro j hj
  simp only [BitVec.getLsbD_extractLsb', BitVec.getLsbD_append, hj]
  rw [if_neg (by omega), show start + j - b = start - b + j by omega]

/-- The slice of all bits. -/
theorem slice_all {a : Nat} (u : BitVec a) : u.extractLsb' 0 a = u := by
  apply BitVec.eq_of_getLsbD_eq
  intro j hj
  simp [hj]

section fields

variable (op : BitVec 4) (x y : RegNum) (n : BitVec 4) (kk : Byte) (nnn : Addr)

@[simp] theorem wordA_op : fieldOp (wordA op nnn) = op := by
  rw [fieldOp, wordA, slice_append_high (h := by omega), slice_all]

@[simp] theorem wordA_nnn : fieldNNN (wordA op nnn) = nnn := by
  rw [fieldNNN, wordA, slice_append_low (h := by omega), slice_all]

@[simp] theorem wordXK_op : fieldOp (wordXK op x kk) = op := by
  rw [fieldOp, wordXK, slice_append_high (h := by omega), slice_append_high (h := by omega), slice_all]

@[simp] theorem wordXK_x : fieldX (wordXK op x kk) = x := by
  rw [fieldX, wordXK, slice_append_high (h := by omega), slice_append_low (h := by omega), slice_all]

@[simp] theorem wordXK_kk : fieldKK (wordXK op x kk) = kk := by
  rw [fieldKK, wordXK, slice_append_low (h := by omega), slice_all]

@[simp] theorem wordXYN_op : fieldOp (wordXYN op x y n) = op := by
  rw [fieldOp, wordXYN, slice_append_high (h := by omega), slice_append_high (h := by omega),
    slice_append_high (h := by omega), slice_all]

@[simp] theorem wordXYN_x : fieldX (wordXYN op x y n) = x := by
  rw [fieldX, wordXYN, slice_append_high (h := by omega), slice_append_high (h := by omega),
    slice_append_low (h := by omega), slice_all]

@[simp] theorem wordXYN_y : fieldY (wordXYN op x y n) = y := by
  rw [fieldY, wordXYN, slice_append_high (h := by omega), slice_append_low (h := by omega), slice_all]

@[simp] theorem wordXYN_n : fieldN (wordXYN op x y n) = n := by
  rw [fieldN, wordXYN, slice_append_low (h := by omega), slice_all]

end fields

/-- The two bytes of a word, in fetch order, make the word again (R41). -/
@[simp] theorem wordOfBytes_highLow (w : Word) : wordOfBytes (highByte w) (lowByte w) = w := by
  apply BitVec.eq_of_getLsbD_eq
  intro j hj
  simp only [wordOfBytes, highByte, lowByte, BitVec.getLsbD_append, BitVec.getLsbD_extractLsb']
  by_cases h : j < 8
  · simp [h]
  · rw [if_neg h, show 8 + (j - 8) = j by omega]
    simp [show j - 8 < 8 by omega]

end Sys2Proof
end

