-- ==== Sys2Proof/Laws/Events.lean ====
section
/-! SUPPORT. One lemma per field for each step of an engine or of the environment. -/

namespace Sys2Proof.Machine

variable (s : State)

@[simp] theorem State.press_v (k : KeyCode) : (s.press k).v = s.v := rfl
@[simp] theorem State.press_i (k : KeyCode) : (s.press k).i = s.i := rfl
@[simp] theorem State.press_pc (k : KeyCode) : (s.press k).pc = s.pc := rfl
@[simp] theorem State.press_sp (k : KeyCode) : (s.press k).sp = s.sp := rfl
@[simp] theorem State.press_stack (k : KeyCode) : (s.press k).stack = s.stack := rfl
@[simp] theorem State.press_mem (k : KeyCode) : (s.press k).mem = s.mem := rfl
@[simp] theorem State.press_pix (k : KeyCode) : (s.press k).pix = s.pix := rfl
@[simp] theorem State.press_dt (k : KeyCode) : (s.press k).dt = s.dt := rfl
@[simp] theorem State.press_st (k : KeyCode) : (s.press k).st = s.st := rfl
@[simp] theorem State.press_keys (k : KeyCode) : (s.press k).keys = s.keys.set k.toNat true := rfl
@[simp] theorem State.press_lastKey (k : KeyCode) : (s.press k).lastKey = some k := rfl
@[simp] theorem State.press_running (k : KeyCode) : (s.press k).running = s.running := rfl
@[simp] theorem State.press_cpuMode (k : KeyCode) : (s.press k).cpuMode = s.cpuMode := rfl
@[simp] theorem State.press_straps (k : KeyCode) : (s.press k).straps = s.straps := rfl
@[simp] theorem State.press_draws (k : KeyCode) : (s.press k).draws = s.draws := rfl
@[simp] theorem State.press_turns (k : KeyCode) : (s.press k).turns = s.turns := rfl
@[simp] theorem State.press_turnsDrawn (k : KeyCode) : (s.press k).turnsDrawn = s.turnsDrawn := rfl

@[simp] theorem State.release_v (k : KeyCode) : (s.release k).v = s.v := rfl
@[simp] theorem State.release_i (k : KeyCode) : (s.release k).i = s.i := rfl
@[simp] theorem State.release_pc (k : KeyCode) : (s.release k).pc = s.pc := rfl
@[simp] theorem State.release_sp (k : KeyCode) : (s.release k).sp = s.sp := rfl
@[simp] theorem State.release_stack (k : KeyCode) : (s.release k).stack = s.stack := rfl
@[simp] theorem State.release_mem (k : KeyCode) : (s.release k).mem = s.mem := rfl
@[simp] theorem State.release_pix (k : KeyCode) : (s.release k).pix = s.pix := rfl
@[simp] theorem State.release_dt (k : KeyCode) : (s.release k).dt = s.dt := rfl
@[simp] theorem State.release_st (k : KeyCode) : (s.release k).st = s.st := rfl
@[simp] theorem State.release_keys (k : KeyCode) : (s.release k).keys = s.keys.set k.toNat false := rfl
@[simp] theorem State.release_lastKey (k : KeyCode) : (s.release k).lastKey = s.lastKey := rfl
@[simp] theorem State.release_running (k : KeyCode) : (s.release k).running = s.running := rfl
@[simp] theorem State.release_cpuMode (k : KeyCode) : (s.release k).cpuMode = s.cpuMode := rfl
@[simp] theorem State.release_straps (k : KeyCode) : (s.release k).straps = s.straps := rfl
@[simp] theorem State.release_draws (k : KeyCode) : (s.release k).draws = s.draws := rfl
@[simp] theorem State.release_turns (k : KeyCode) : (s.release k).turns = s.turns := rfl
@[simp] theorem State.release_turnsDrawn (k : KeyCode) : (s.release k).turnsDrawn = s.turnsDrawn := rfl

@[simp] theorem State.stop_v : (s.stop).v = s.v := rfl
@[simp] theorem State.stop_i : (s.stop).i = s.i := rfl
@[simp] theorem State.stop_pc : (s.stop).pc = s.pc := rfl
@[simp] theorem State.stop_sp : (s.stop).sp = s.sp := rfl
@[simp] theorem State.stop_stack : (s.stop).stack = s.stack := rfl
@[simp] theorem State.stop_mem : (s.stop).mem = s.mem := rfl
@[simp] theorem State.stop_pix : (s.stop).pix = s.pix := rfl
@[simp] theorem State.stop_dt : (s.stop).dt = s.dt := rfl
@[simp] theorem State.stop_st : (s.stop).st = s.st := rfl
@[simp] theorem State.stop_keys : (s.stop).keys = s.keys := rfl
@[simp] theorem State.stop_lastKey : (s.stop).lastKey = s.lastKey := rfl
@[simp] theorem State.stop_running : (s.stop).running = false := rfl
@[simp] theorem State.stop_cpuMode : (s.stop).cpuMode = s.cpuMode := rfl
@[simp] theorem State.stop_straps : (s.stop).straps = s.straps := rfl
@[simp] theorem State.stop_draws : (s.stop).draws = s.draws := rfl
@[simp] theorem State.stop_turns : (s.stop).turns = s.turns := rfl
@[simp] theorem State.stop_turnsDrawn : (s.stop).turnsDrawn = s.turnsDrawn := rfl

@[simp] theorem State.frame_v : (s.frame).v = s.v := State.setPix_v s (decay s.pix)
@[simp] theorem State.frame_i : (s.frame).i = s.i := State.setPix_i s (decay s.pix)
@[simp] theorem State.frame_pc : (s.frame).pc = s.pc := State.setPix_pc s (decay s.pix)
@[simp] theorem State.frame_sp : (s.frame).sp = s.sp := State.setPix_sp s (decay s.pix)
@[simp] theorem State.frame_stack : (s.frame).stack = s.stack := State.setPix_stack s (decay s.pix)
@[simp] theorem State.frame_mem : (s.frame).mem = s.mem := State.setPix_mem s (decay s.pix)
@[simp] theorem State.frame_pix : (s.frame).pix = decay s.pix := State.setPix_pix s (decay s.pix)
@[simp] theorem State.frame_dt : (s.frame).dt = s.dt := State.setPix_dt s (decay s.pix)
@[simp] theorem State.frame_st : (s.frame).st = s.st := State.setPix_st s (decay s.pix)
@[simp] theorem State.frame_keys : (s.frame).keys = s.keys := State.setPix_keys s (decay s.pix)
@[simp] theorem State.frame_lastKey : (s.frame).lastKey = s.lastKey := State.setPix_lastKey s (decay s.pix)
@[simp] theorem State.frame_running : (s.frame).running = s.running := State.setPix_running s (decay s.pix)
@[simp] theorem State.frame_cpuMode : (s.frame).cpuMode = s.cpuMode := State.setPix_cpuMode s (decay s.pix)
@[simp] theorem State.frame_straps : (s.frame).straps = s.straps := State.setPix_straps s (decay s.pix)
@[simp] theorem State.frame_draws : (s.frame).draws = s.draws := State.setPix_draws s (decay s.pix)
@[simp] theorem State.frame_turns : (s.frame).turns = s.turns := State.setPix_turns s (decay s.pix)
@[simp] theorem State.frame_turnsDrawn : (s.frame).turnsDrawn = s.turnsDrawn := State.setPix_turnsDrawn s (decay s.pix)

/-- A tick lowers the timer by one; at 0 it passes (R160, R161). -/
theorem State.delayTick_eq : s.delayTick = { s with dt := if s.dt = 0x00#8 then 0x00#8 else s.dt - 1#8 } := by
  by_cases h : s.dt = 0x00#8
  · cases s; simp_all [State.delayTick, State.delayRunning]
  · simp [State.delayTick, State.delayRunning, State.setDt, h]

@[simp] theorem State.delayTick_v : (s.delayTick).v = s.v := by rw [State.delayTick_eq]
@[simp] theorem State.delayTick_i : (s.delayTick).i = s.i := by rw [State.delayTick_eq]
@[simp] theorem State.delayTick_pc : (s.delayTick).pc = s.pc := by rw [State.delayTick_eq]
@[simp] theorem State.delayTick_sp : (s.delayTick).sp = s.sp := by rw [State.delayTick_eq]
@[simp] theorem State.delayTick_stack : (s.delayTick).stack = s.stack := by rw [State.delayTick_eq]
@[simp] theorem State.delayTick_mem : (s.delayTick).mem = s.mem := by rw [State.delayTick_eq]
@[simp] theorem State.delayTick_pix : (s.delayTick).pix = s.pix := by rw [State.delayTick_eq]
@[simp] theorem State.delayTick_dt : (s.delayTick).dt = if s.dt = 0x00#8 then 0x00#8 else s.dt - 1#8 := by rw [State.delayTick_eq]
@[simp] theorem State.delayTick_st : (s.delayTick).st = s.st := by rw [State.delayTick_eq]
@[simp] theorem State.delayTick_keys : (s.delayTick).keys = s.keys := by rw [State.delayTick_eq]
@[simp] theorem State.delayTick_lastKey : (s.delayTick).lastKey = s.lastKey := by rw [State.delayTick_eq]
@[simp] theorem State.delayTick_running : (s.delayTick).running = s.running := by rw [State.delayTick_eq]
@[simp] theorem State.delayTick_cpuMode : (s.delayTick).cpuMode = s.cpuMode := by rw [State.delayTick_eq]
@[simp] theorem State.delayTick_straps : (s.delayTick).straps = s.straps := by rw [State.delayTick_eq]
@[simp] theorem State.delayTick_draws : (s.delayTick).draws = s.draws := by rw [State.delayTick_eq]
@[simp] theorem State.delayTick_turns : (s.delayTick).turns = s.turns := by rw [State.delayTick_eq]
@[simp] theorem State.delayTick_turnsDrawn : (s.delayTick).turnsDrawn = s.turnsDrawn := by rw [State.delayTick_eq]

/-- A tick lowers the timer by one; at 0 it passes (R160, R161). -/
theorem State.soundTick_eq : s.soundTick = { s with st := if s.st = 0x00#8 then 0x00#8 else s.st - 1#8 } := by
  by_cases h : s.st = 0x00#8
  · cases s; simp_all [State.soundTick, State.soundRunning]
  · simp [State.soundTick, State.soundRunning, State.setSt, h]

@[simp] theorem State.soundTick_v : (s.soundTick).v = s.v := by rw [State.soundTick_eq]
@[simp] theorem State.soundTick_i : (s.soundTick).i = s.i := by rw [State.soundTick_eq]
@[simp] theorem State.soundTick_pc : (s.soundTick).pc = s.pc := by rw [State.soundTick_eq]
@[simp] theorem State.soundTick_sp : (s.soundTick).sp = s.sp := by rw [State.soundTick_eq]
@[simp] theorem State.soundTick_stack : (s.soundTick).stack = s.stack := by rw [State.soundTick_eq]
@[simp] theorem State.soundTick_mem : (s.soundTick).mem = s.mem := by rw [State.soundTick_eq]
@[simp] theorem State.soundTick_pix : (s.soundTick).pix = s.pix := by rw [State.soundTick_eq]
@[simp] theorem State.soundTick_dt : (s.soundTick).dt = s.dt := by rw [State.soundTick_eq]
@[simp] theorem State.soundTick_st : (s.soundTick).st = if s.st = 0x00#8 then 0x00#8 else s.st - 1#8 := by rw [State.soundTick_eq]
@[simp] theorem State.soundTick_keys : (s.soundTick).keys = s.keys := by rw [State.soundTick_eq]
@[simp] theorem State.soundTick_lastKey : (s.soundTick).lastKey = s.lastKey := by rw [State.soundTick_eq]
@[simp] theorem State.soundTick_running : (s.soundTick).running = s.running := by rw [State.soundTick_eq]
@[simp] theorem State.soundTick_cpuMode : (s.soundTick).cpuMode = s.cpuMode := by rw [State.soundTick_eq]
@[simp] theorem State.soundTick_straps : (s.soundTick).straps = s.straps := by rw [State.soundTick_eq]
@[simp] theorem State.soundTick_draws : (s.soundTick).draws = s.draws := by rw [State.soundTick_eq]
@[simp] theorem State.soundTick_turns : (s.soundTick).turns = s.turns := by rw [State.soundTick_eq]
@[simp] theorem State.soundTick_turnsDrawn : (s.soundTick).turnsDrawn = s.turnsDrawn := by rw [State.soundTick_eq]

end Sys2Proof.Machine
end

