-- ==== Sys2Proof/Laws/Step.lean ====
section
/-! SUPPORT. What one step can do, said once (`step_cases`), and what taking a turn leaves unchanged. -/

namespace Sys2Proof.Machine

/-- Taking a turn changes the model's own fields `turns` and `turnsDrawn` alone. -/
theorem afterTurn_eq (s : State) :
    s.afterTurn = { s with turns := s.afterTurn.turns, turnsDrawn := s.afterTurn.turnsDrawn } := by
  unfold State.afterTurn
  split <;> rfl

section fields

variable (s : State)

@[simp] theorem afterTurn_v : s.afterTurn.v = s.v := by rw [afterTurn_eq]
@[simp] theorem afterTurn_i : s.afterTurn.i = s.i := by rw [afterTurn_eq]
@[simp] theorem afterTurn_pc : s.afterTurn.pc = s.pc := by rw [afterTurn_eq]
@[simp] theorem afterTurn_sp : s.afterTurn.sp = s.sp := by rw [afterTurn_eq]
@[simp] theorem afterTurn_stack : s.afterTurn.stack = s.stack := by rw [afterTurn_eq]
@[simp] theorem afterTurn_mem : s.afterTurn.mem = s.mem := by rw [afterTurn_eq]
@[simp] theorem afterTurn_pix : s.afterTurn.pix = s.pix := by rw [afterTurn_eq]
@[simp] theorem afterTurn_dt : s.afterTurn.dt = s.dt := by rw [afterTurn_eq]
@[simp] theorem afterTurn_st : s.afterTurn.st = s.st := by rw [afterTurn_eq]
@[simp] theorem afterTurn_keys : s.afterTurn.keys = s.keys := by rw [afterTurn_eq]
@[simp] theorem afterTurn_lastKey : s.afterTurn.lastKey = s.lastKey := by rw [afterTurn_eq]
@[simp] theorem afterTurn_running : s.afterTurn.running = s.running := by rw [afterTurn_eq]
@[simp] theorem afterTurn_cpuMode : s.afterTurn.cpuMode = s.cpuMode := by rw [afterTurn_eq]
@[simp] theorem afterTurn_straps : s.afterTurn.straps = s.straps := by rw [afterTurn_eq]
@[simp] theorem afterTurn_draws : s.afterTurn.draws = s.draws := by rw [afterTurn_eq]
@[simp] theorem afterTurn_fetchWord : s.afterTurn.fetchWord = s.fetchWord := by rw [afterTurn_eq]; rfl

end fields

/-- A turn of the CPU is a whole instruction, the no-operation of an unrecognised word, a key-wait completion, or, while it
waits for a key, no step. -/
theorem cpuStep_cases (s : State) :
    (∃ i, s.cpuMode = .run ∧ decode s.fetchWord = .ok i ∧ cpuStep s = exec i s) ∨
    (∃ e, s.cpuMode = .run ∧ decode s.fetchWord = .error e ∧ cpuStep s = .next s.advance) ∨
    (∃ k, s.cpuMode = .waitKey ∧ s.lastKey = some k ∧ cpuStep s = .next (s.completeKeyWait k)) ∨
    (s.cpuMode = .waitKey ∧ s.lastKey = none ∧ cpuStep s = .next s) := by
  cases hm : s.cpuMode with
  | run =>
    cases hd : decode s.fetchWord with
    | ok i => exact .inl ⟨i, rfl, rfl, by simp [cpuStep, hm, executeWord, hd]⟩
    | error e => exact .inr (.inl ⟨e, rfl, rfl, by simp [cpuStep, hm, executeWord, hd, execUnrecognised]⟩)
  | waitKey =>
    cases hk : s.lastKey with
    | some k => exact .inr (.inr (.inl ⟨k, rfl, rfl, by simp [cpuStep, hm, hk]⟩))
    | none => exact .inr (.inr (.inr ⟨rfl, rfl, by simp [cpuStep, hm, hk]⟩))

/-- Everything a step that gives a next state can be: RUNNING is true, and it is the step of the agent whose turn it is. -/
theorem step_cases {s t : State} (h : step s = .next t) :
    s.running = true ∧
    ((s.nextTurn = .cpu ∧ cpuStep s.afterTurn = .next t) ∨
     (s.nextTurn = .delayTick ∧ t = s.afterTurn.delayTick) ∨
     (s.nextTurn = .soundTick ∧ t = s.afterTurn.soundTick) ∨
     (∃ k, s.nextTurn = .press k ∧ t = s.afterTurn.press k) ∨
     (∃ k, s.nextTurn = .release k ∧ t = s.afterTurn.release k) ∨
     (s.nextTurn = .frame ∧ t = s.afterTurn.frame) ∨
     (s.nextTurn = .stop ∧ t = s.afterTurn.stop)) := by
  unfold step at h
  split at h
  · rename_i hr
    refine ⟨hr, ?_⟩
    cases hn : s.nextTurn with
    | cpu => exact .inl ⟨rfl, by simpa [hn, runTurn] using h⟩
    | delayTick => exact .inr (.inl ⟨rfl, by simpa [hn, runTurn] using h.symm⟩)
    | soundTick => exact .inr (.inr (.inl ⟨rfl, by simpa [hn, runTurn] using h.symm⟩))
    | press k => exact .inr (.inr (.inr (.inl ⟨k, rfl, by simpa [hn, runTurn] using h.symm⟩)))
    | release k => exact .inr (.inr (.inr (.inr (.inl ⟨k, rfl, by simpa [hn, runTurn] using h.symm⟩))))
    | frame => exact .inr (.inr (.inr (.inr (.inr (.inl ⟨rfl, by simpa [hn, runTurn] using h.symm⟩)))))
    | stop => exact .inr (.inr (.inr (.inr (.inr (.inr ⟨rfl, by simpa [hn, runTurn] using h.symm⟩)))))
  · cases h

end Sys2Proof.Machine
end

