-- ==== Sys2Proof/Laws/Exec.lean ====
section
/-! SUPPORT. What `exec` can change, said once for all instructions (`exec_frame`), and what a turn of the CPU is in the words
of Safety.lean (`cpuTurn_cases`). -/

namespace Sys2Proof.Machine

/-- What an instruction leaves unchanged, and which instructions alone change the rest. -/
structure ExecFrame (i : Instr) (s t : State) : Prop where
  keys : t.keys = s.keys
  running : t.running = s.running
  straps : t.straps = s.straps
  turns : t.turns = s.turns
  turnsDrawn : t.turnsDrawn = s.turnsDrawn
  sp : t.sp = s.sp ∨ i = .ret ∨ ∃ a, i = .call a
  stack : t.stack = s.stack ∨ i = .ret ∨ ∃ a, i = .call a
  pix : t.pix = s.pix ∨ i = .cls ∨ ∃ x y n, i = .drw x y n
  dt : t.dt = s.dt ∨ ∃ x, i = .ldDtVx x
  st : t.st = s.st ∨ ∃ x, i = .ldStVx x
  lastKey : t.lastKey = s.lastKey ∨ ∃ x, i = .ldVxK x
  mem : t.mem = s.mem ∨ ∃ x, i = .ldB x ∨ i = .ldMemVx x

theorem storeRegs_regsUpTo_frame (s : State) (x : RegNum) :
    s.storeRegs (regsUpTo x) = { s with mem := (s.storeRegs (regsUpTo x)).mem } :=
  storeRegs_frame s _

theorem loadRegs_regsUpTo_frame (s : State) (x : RegNum) :
    s.loadRegs (regsUpTo x) = { s with v := (s.loadRegs (regsUpTo x)).v } :=
  loadRegs_frame s _

/-- The frame of every instruction. -/
theorem exec_frame {i : Instr} {s t : State} (h : exec i s = .next t) : ExecFrame i s t := by
  cases i
  case ldMemVx x =>
    cases h
    rw [storeRegs_regsUpTo_frame]
    exact ⟨rfl, rfl, rfl, rfl, rfl, .inl rfl, .inl rfl, .inl rfl, .inl rfl, .inl rfl, .inl rfl, .inr ⟨x, .inr rfl⟩⟩
  case ldVxMem x =>
    cases h
    rw [loadRegs_regsUpTo_frame]
    exact ⟨rfl, rfl, rfl, rfl, rfl, .inl rfl, .inl rfl, .inl rfl, .inl rfl, .inl rfl, .inl rfl, .inl rfl⟩
  all_goals
    cases h
    refine ⟨rfl, rfl, rfl, rfl, rfl, ?_, ?_, ?_, ?_, ?_, ?_, ?_⟩
  all_goals first
    | exact .inl rfl
    | simp

/-- A turn of the CPU that gives a next state: an instruction, or the no-operation of an unrecognised word, or a key-wait
completion, or no step. -/
theorem cpuTurn_cases {s t : State} (h : step s = .next t) (hc : s.nextTurn = .cpu) :
    (∃ i, executing s = some i ∧ exec i s.afterTurn = .next t) ∨
    (executing s = none ∧ s.cpuMode = .run ∧ t = s.afterTurn.advance) ∨
    (∃ k, executing s = none ∧ s.cpuMode = .waitKey ∧ t = s.afterTurn.completeKeyWait k) ∨
    (executing s = none ∧ s.cpuMode = .waitKey ∧ t = s.afterTurn) := by
  obtain ⟨hr, ⟨-, h'⟩ | h'⟩ := step_cases h
  · rcases cpuStep_cases s.afterTurn with ⟨i, hm, hd, e⟩ | ⟨i, hm, hd, e⟩ | ⟨k, hm, -, e⟩ | ⟨hm, -, e⟩
    all_goals
      rw [e] at h'
      rw [afterTurn_cpuMode] at hm
    · rw [afterTurn_fetchWord] at hd
      exact .inl ⟨i, by simp [executing, hr, hc, hm, hd, Except.toOption], h'⟩
    · rw [afterTurn_fetchWord] at hd
      cases h'
      exact .inr (.inl ⟨by simp [executing, hr, hc, hm, hd, Except.toOption], hm, rfl⟩)
    · cases h'
      exact .inr (.inr (.inl ⟨k, by simp [executing, hm], hm, rfl⟩))
    · cases h'
      exact .inr (.inr (.inr ⟨by simp [executing, hm], hm, rfl⟩))
  · rcases h' with ⟨q, -⟩ | ⟨q, -⟩ | ⟨k, q, -⟩ | ⟨k, q, -⟩ | ⟨q, -⟩ | ⟨q, -⟩ <;> rw [hc] at q <;> cases q

end Sys2Proof.Machine
end

