-- ==== Sys2Proof/Laws/PerInstr.lean ====
section
/-! SUPPORT. The per-instruction family `EncodesItsRow`: an instruction's word carries the fixed bits of its own row of R66, and
its operands fit their fields (R61). -/

namespace Sys2Proof.Laws.EncodesItsRow

/-- The encoded word is a word of the instruction's row (`W & mask = match`, R66), and the instruction is well formed. -/
def Statement (i : Instr) : Prop := encode i &&& i.row.2 = i.row.1 ∧ i.wellFormed = true

/-- The bits of a concatenation under a mask, part by part. -/
theorem append_and {a b : Nat} (u p : BitVec a) (v q : BitVec b) : (u ++ v) &&& (p ++ q) = (u &&& p) ++ (v &&& q) := by
  rw [BitVec.and_append]

theorem wordA_masked (op : BitVec 4) (nnn : Addr) : wordA op nnn &&& (0xF#4 ++ 0x000#12) = op ++ 0x000#12 := by
  rw [wordA, append_and, BitVec.and_zero, show (0xF#4) = BitVec.allOnes 4 from rfl, BitVec.and_allOnes]

theorem wordXK_masked (op : BitVec 4) (x : RegNum) (kk : Byte) :
    wordXK op x kk &&& (0xF#4 ++ 0x0#4 ++ 0x00#8) = op ++ 0x0#4 ++ 0x00#8 := by
  rw [wordXK, append_and, append_and, BitVec.and_zero, BitVec.and_zero, show (0xF#4) = BitVec.allOnes 4 from rfl,
    BitVec.and_allOnes]

theorem wordXS_masked (op : BitVec 4) (x : RegNum) (kk : Byte) :
    wordXK op x kk &&& (0xF#4 ++ 0x0#4 ++ 0xFF#8) = op ++ 0x0#4 ++ kk := by
  rw [wordXK, append_and, append_and, BitVec.and_zero, show (0xF#4) = BitVec.allOnes 4 from rfl,
    show (0xFF#8) = BitVec.allOnes 8 from rfl, BitVec.and_allOnes, BitVec.and_allOnes]

theorem wordXYN_masked (op : BitVec 4) (x y : RegNum) (n : BitVec 4) :
    wordXYN op x y n &&& (0xF#4 ++ 0x0#4 ++ 0x0#4 ++ 0x0#4) = op ++ 0x0#4 ++ 0x0#4 ++ 0x0#4 := by
  rw [wordXYN, append_and, append_and, append_and, BitVec.and_zero, BitVec.and_zero, BitVec.and_zero,
    show (0xF#4) = BitVec.allOnes 4 from rfl, BitVec.and_allOnes]

theorem wordXY_masked (op : BitVec 4) (x y : RegNum) (n : BitVec 4) :
    wordXYN op x y n &&& (0xF#4 ++ 0x0#4 ++ 0x0#4 ++ 0xF#4) = op ++ 0x0#4 ++ 0x0#4 ++ n := by
  rw [wordXYN, append_and, append_and, append_and, BitVec.and_zero, BitVec.and_zero,
    show (0xF#4) = BitVec.allOnes 4 from rfl, BitVec.and_allOnes, BitVec.and_allOnes]

theorem fits_addr (nnn : Addr) : ([(nnn.toNat, 12)].all fun o => decide (o.1 < 2 ^ o.2)) = true := by
  simp only [List.all_cons, List.all_nil, Bool.and_true, decide_eq_true_eq]
  exact nnn.isLt

theorem fits_one (x : RegNum) : ([(x.toNat, 4)].all fun o => decide (o.1 < 2 ^ o.2)) = true := by
  simp only [List.all_cons, List.all_nil, Bool.and_true, decide_eq_true_eq]
  exact x.isLt

theorem fits_reg_byte (x : RegNum) (kk : Byte) :
    ([(x.toNat, 4), (kk.toNat, 8)].all fun o => decide (o.1 < 2 ^ o.2)) = true := by
  simp only [List.all_cons, List.all_nil, Bool.and_true, Bool.and_eq_true, decide_eq_true_eq]
  exact ⟨x.isLt, kk.isLt⟩

theorem fits_two (x y : RegNum) : ([(x.toNat, 4), (y.toNat, 4)].all fun o => decide (o.1 < 2 ^ o.2)) = true := by
  simp only [List.all_cons, List.all_nil, Bool.and_true, Bool.and_eq_true, decide_eq_true_eq]
  exact ⟨x.isLt, y.isLt⟩

theorem fits_three (x y : RegNum) (n : RowCount) :
    ([(x.toNat, 4), (y.toNat, 4), (n.toNat, 4)].all fun o => decide (o.1 < 2 ^ o.2)) = true := by
  simp only [List.all_cons, List.all_nil, Bool.and_true, Bool.and_eq_true, decide_eq_true_eq]
  exact ⟨x.isLt, y.isLt, n.isLt⟩

theorem cls : Statement .cls := ⟨by decide, by decide⟩
theorem ret : Statement .ret := ⟨by decide, by decide⟩
theorem jp (nnn : Addr) : Statement (.jp nnn) := ⟨wordA_masked _ nnn, fits_addr nnn⟩
theorem call (nnn : Addr) : Statement (.call nnn) := ⟨wordA_masked _ nnn, fits_addr nnn⟩
theorem seByte (x : RegNum) (kk : Byte) : Statement (.seByte x kk) := ⟨wordXK_masked _ x kk, fits_reg_byte x kk⟩
theorem sneByte (x : RegNum) (kk : Byte) : Statement (.sneByte x kk) := ⟨wordXK_masked _ x kk, fits_reg_byte x kk⟩
theorem seReg (x y : RegNum) : Statement (.seReg x y) := ⟨wordXY_masked _ x y _, fits_two x y⟩
theorem ldByte (x : RegNum) (kk : Byte) : Statement (.ldByte x kk) := ⟨wordXK_masked _ x kk, fits_reg_byte x kk⟩
theorem addByte (x : RegNum) (kk : Byte) : Statement (.addByte x kk) := ⟨wordXK_masked _ x kk, fits_reg_byte x kk⟩
theorem ldReg (x y : RegNum) : Statement (.ldReg x y) := ⟨wordXY_masked _ x y _, fits_two x y⟩
theorem orReg (x y : RegNum) : Statement (.orReg x y) := ⟨wordXY_masked _ x y _, fits_two x y⟩
theorem andReg (x y : RegNum) : Statement (.andReg x y) := ⟨wordXY_masked _ x y _, fits_two x y⟩
theorem xorReg (x y : RegNum) : Statement (.xorReg x y) := ⟨wordXY_masked _ x y _, fits_two x y⟩
theorem addReg (x y : RegNum) : Statement (.addReg x y) := ⟨wordXY_masked _ x y _, fits_two x y⟩
theorem subReg (x y : RegNum) : Statement (.subReg x y) := ⟨wordXY_masked _ x y _, fits_two x y⟩
theorem shr (x y : RegNum) : Statement (.shr x y) := ⟨wordXY_masked _ x y _, fits_two x y⟩
theorem subn (x y : RegNum) : Statement (.subn x y) := ⟨wordXY_masked _ x y _, fits_two x y⟩
theorem shl (x y : RegNum) : Statement (.shl x y) := ⟨wordXY_masked _ x y _, fits_two x y⟩
theorem sneReg (x y : RegNum) : Statement (.sneReg x y) := ⟨wordXY_masked _ x y _, fits_two x y⟩
theorem ldI (nnn : Addr) : Statement (.ldI nnn) := ⟨wordA_masked _ nnn, fits_addr nnn⟩
theorem jpV0 (nnn : Addr) : Statement (.jpV0 nnn) := ⟨wordA_masked _ nnn, fits_addr nnn⟩
theorem rnd (x : RegNum) (kk : Byte) : Statement (.rnd x kk) := ⟨wordXK_masked _ x kk, fits_reg_byte x kk⟩
theorem drw (x y : RegNum) (n : RowCount) : Statement (.drw x y n) := ⟨wordXYN_masked _ x y n, fits_three x y n⟩
theorem skp (x : RegNum) : Statement (.skp x) := ⟨wordXS_masked _ x _, fits_one x⟩
theorem sknp (x : RegNum) : Statement (.sknp x) := ⟨wordXS_masked _ x _, fits_one x⟩
theorem ldVxDt (x : RegNum) : Statement (.ldVxDt x) := ⟨wordXS_masked _ x _, fits_one x⟩
theorem ldVxK (x : RegNum) : Statement (.ldVxK x) := ⟨wordXS_masked _ x _, fits_one x⟩
theorem ldDtVx (x : RegNum) : Statement (.ldDtVx x) := ⟨wordXS_masked _ x _, fits_one x⟩
theorem ldStVx (x : RegNum) : Statement (.ldStVx x) := ⟨wordXS_masked _ x _, fits_one x⟩
theorem addI (x : RegNum) : Statement (.addI x) := ⟨wordXS_masked _ x _, fits_one x⟩
theorem ldF (x : RegNum) : Statement (.ldF x) := ⟨wordXS_masked _ x _, fits_one x⟩
theorem ldB (x : RegNum) : Statement (.ldB x) := ⟨wordXS_masked _ x _, fits_one x⟩
theorem ldMemVx (x : RegNum) : Statement (.ldMemVx x) := ⟨wordXS_masked _ x _, fits_one x⟩
theorem ldVxMem (x : RegNum) : Statement (.ldVxMem x) := ⟨wordXS_masked _ x _, fits_one x⟩
end Sys2Proof.Laws.EncodesItsRow
end

