-- ==== Sys2Proof/Laws/Sprite.lean ====
section
/-! SUPPORT. The pixels a DRW toggles, from the sprite's side (`spriteCovers_iff`) and as one toggle of the display
(`drwBlit_toggles`). -/

namespace Sys2Proof.Machine

/-- A pixel is covered exactly when some sprite row and column land on it with a sprite bit 1 (R132). -/
theorem spriteCovers_iff (s : State) (x y : RegNum) (n : RowCount) (r : Fin 32) (c : Fin 64) :
    spriteCovers s x y n r c = true ↔
      ∃ row < n.toNat, ∃ col < 8, edgeRow s.straps.drawPolicy (s.spriteRow y + row) = some r ∧
        edgeCol s.straps.drawPolicy (s.spriteCol x + col) = some c ∧
        (s.readByte (s.effAddr row)).getLsbD (7 - col) = true := by
  have hr := r.isLt
  have hc := c.isLt
  have hn := n.isLt
  have h1 : s.spriteRow y < 32 := Nat.mod_lt _ (by decide)
  have h2 : s.spriteCol x < 64 := Nat.mod_lt _ (by decide)
  simp only [edgeRow_iff, edgeCol_iff, spriteCovers, inReach]
  generalize s.spriteRow y = y0 at *
  generalize s.spriteCol x = x0 at *
  cases s.straps.drawPolicy
  · simp only [if_true, Bool.true_and, Bool.and_eq_true, decide_eq_true_eq]
    constructor
    · rintro ⟨⟨a, b⟩, d⟩
      exact ⟨_, a, _, b, by omega, by omega, d⟩
    · rintro ⟨row, a, col, b, e, f, d⟩
      have e1 : (r.val + 32 - y0) % 32 = row := by omega
      have e2 : (c.val + 64 - x0) % 64 = col := by omega
      rw [e1, e2]
      exact ⟨⟨a, b⟩, d⟩
  · simp only [reduceCtorEq, if_false, Bool.and_eq_true, decide_eq_true_eq]
    constructor
    · rintro ⟨⟨⟨⟨p, q⟩, a⟩, b⟩, d⟩
      exact ⟨_, a, _, b, by omega, by omega, d⟩
    · rintro ⟨row, a, col, b, e, f, d⟩
      have e1 : (r.val + 32 - y0) % 32 = row := by omega
      have e2 : (c.val + 64 - x0) % 64 = col := by omega
      rw [e1, e2]
      exact ⟨⟨⟨⟨by omega, by omega⟩, a⟩, b⟩, d⟩

/-- The blit of a DRW toggles exactly the covered pixels. -/
theorem drwBlit_toggles (s : State) (x y : RegNum) (n : RowCount) :
    Toggles s.straps.fadeMax (fun r c => spriteCovers s x y n r c = true) { pix := s.pix, collided := false }
      (s.drwBlit x y n) := by
  have hn := n.isLt
  have hlen : (s.spriteBytes n).length ≤ 32 := by
    rw [State.spriteBytes, List.length_map, List.length_range]
    omega
  refine (blit_toggles s.straps s.pix (s.spriteBytes n) (s.spriteCol x) (s.spriteRow y) hlen).congr fun r c => ?_
  rw [spriteCovers_iff]
  constructor
  · rintro ⟨k, hk, a, col, b, d, e⟩
    simp [State.spriteBytes] at hk
    exact ⟨k, hk, col, b, a, d, by simpa [State.spriteBytes, spriteBit] using e⟩
  · rintro ⟨k, hk, col, b, a, d, e⟩
    exact ⟨k, by simpa [State.spriteBytes] using hk, a, col, b, d, by simpa [State.spriteBytes, spriteBit] using e⟩

/-- Taking a turn moves no sprite. -/
@[simp] theorem afterTurn_spriteCovers (s : State) (x y : RegNum) (n : RowCount) (r : Fin 32) (c : Fin 64) :
    spriteCovers s.afterTurn x y n r c = spriteCovers s x y n r c := by
  unfold State.afterTurn
  cases s.turns <;> rfl

end Sys2Proof.Machine
end

