-- ==== Sys2Proof/Tests/Slice0.lean ====
section
/-! SUPPORT. The model's own tests. Expected values come from spec/95_test_vectors.md (vectors S, F, A, M, X, K) and from the
encodings of R66. The last part gives, for every statement with hypotheses, a state and operands that meet them. -/

namespace Sys2Proof.Tests

open Sys2Proof.Machine

/-! ### Helpers -/

/-- The straps of spec/95_test_vectors.md: chip8, wrap, FADE_MAX = 3. -/
def chip8Wrap : Straps := { variant := .chip8, drawPolicy := .wrap, fadeMax := 3 }

/-- The state at reset under those straps, with zero stack entries. -/
def base : State := { State.reset with straps := chip8Wrap, stack := Vector.replicate 16 0x0000#16 }

/-- The same machine under the schip8 variant. -/
def schip8 (s : State) : State := { s with straps := { s.straps with variant := .schip8 } }

/-- The same machine under the clip policy. -/
def clip (s : State) : State := { s with straps := { s.straps with drawPolicy := .clip } }

/-- `base` with some registers set. -/
def regs (l : List (RegNum × Byte)) : State := l.foldl (fun s p => s.setReg p.1 p.2) base

/-- A state with some bytes stored from an address on. -/
def bytesAt (s : State) (a : Word) (l : List Byte) : State :=
  (l.foldl (fun p b => (p.1.writeByte p.2 b, p.2 + 1#16)) (s, a)).1

/-- A state with some keys down. -/
def keysDown (s : State) (l : List KeyCode) : State := { s with keys := l.foldl (fun v k => v.set k.toNat true) s.keys }

/-- One step of the machine on a word at PC. -/
def stepOn (w : Nat) (s : State) : Host.Outcome State Fault Refusal := step (s.withFetchWord 16 w)

/-- A step on a word at PC that gives a next state with a property. -/
def gives (w : Nat) (s : State) (p : State → Bool) : Bool :=
  match stepOn w s with
  | .next t => p t
  | _ => false

/-- One turn of an agent that gives a next state with a property. -/
def turnGives (turn : Turn) (s : State) (p : State → Bool) : Bool :=
  match step { s with turns := turn :: s.turns } with
  | .next t => p t
  | _ => false

/-- Whether a register holds a value. -/
def holds (t : State) (x : RegNum) (b : Byte) : Bool := decide (t.reg x = b)

/-- Whether the bytes from an address on are these. -/
def bytesAre (t : State) (a : Word) (l : List Byte) : Bool :=
  (List.range l.length).all fun k => decide (t.readByte (a + BitVec.ofNat 16 k) = l.getD k 0x00#8)

/-- Whether PC holds a value. -/
def pcIs (t : State) (w : Word) : Bool := decide (t.pc = w)

/-- Whether exactly the listed pixels of a row are on. -/
def rowIs (t : State) (r : Fin 32) (cols : List (Fin 64)) : Bool :=
  (List.finRange 64).all fun c => (t.pixel r c).on == cols.contains c

/-! ### Well-formedness: each check accepts its largest operand and refuses the next one -/

theorem test_regNum : regNum? 15 = some 0xF#4 ∧ regNum? 16 = none := by decide
theorem test_rowCount : rowCount? 15 = some 0xF#4 ∧ rowCount? 16 = none := by decide
theorem test_byteOperand : byteOperand? 255 = some 0xFF#8 ∧ byteOperand? 256 = none := by decide
theorem test_addrOperand : addrOperand? 4095 = some 0xFFF#12 ∧ addrOperand? 4096 = none := by decide
theorem test_program_empty : wellFormedProgram [] = false := by decide
theorem test_program_short : wellFormedProgram [0x00#8] = true := by decide
theorem test_program_longest : wellFormedProgram (List.replicate 0xE00 0x00#8) = true := by
  rw [wellFormedProgram, List.length_replicate]
  decide
theorem test_program_tooLong : wellFormedProgram (List.replicate 0xE01 0x00#8) = false := by
  rw [wellFormedProgram, List.length_replicate]
  decide

/-! ### Decoding: one word per constructor, written out from the patterns of R66 -/

theorem test_decode_cls : decode 0b0000_0000_1110_0000#16 = .ok .cls := rfl
theorem test_decode_ret : decode 0b0000_0000_1110_1110#16 = .ok .ret := rfl
theorem test_decode_jp : decode 0b0001_0010_0011_0100#16 = .ok (.jp 0x234#12) := rfl
theorem test_decode_call : decode 0b0010_0010_0000_1010#16 = .ok (.call 0x20A#12) := rfl
theorem test_decode_seByte : decode 0b0011_0011_0100_0010#16 = .ok (.seByte 0x3#4 0x42#8) := rfl
theorem test_decode_sneByte : decode 0b0100_0011_0100_0011#16 = .ok (.sneByte 0x3#4 0x43#8) := rfl
theorem test_decode_seReg : decode 0b0101_0001_0010_0000#16 = .ok (.seReg 0x1#4 0x2#4) := rfl
theorem test_decode_ldByte : decode 0b0110_0101_1010_1011#16 = .ok (.ldByte 0x5#4 0xAB#8) := rfl
theorem test_decode_addByte : decode 0b0111_0001_0010_0000#16 = .ok (.addByte 0x1#4 0x20#8) := rfl
theorem test_decode_ldReg : decode 0b1000_1111_0001_0000#16 = .ok (.ldReg 0xF#4 0x1#4) := rfl
theorem test_decode_orReg : decode 0b1000_0001_0010_0001#16 = .ok (.orReg 0x1#4 0x2#4) := rfl
theorem test_decode_andReg : decode 0b1000_0001_0010_0010#16 = .ok (.andReg 0x1#4 0x2#4) := rfl
theorem test_decode_xorReg : decode 0b1000_0001_0010_0011#16 = .ok (.xorReg 0x1#4 0x2#4) := rfl
theorem test_decode_addReg : decode 0b1000_0001_0010_0100#16 = .ok (.addReg 0x1#4 0x2#4) := rfl
theorem test_decode_subReg : decode 0b1000_0001_0010_0101#16 = .ok (.subReg 0x1#4 0x2#4) := rfl
theorem test_decode_shr : decode 0b1000_0001_0010_0110#16 = .ok (.shr 0x1#4 0x2#4) := rfl
theorem test_decode_subn : decode 0b1000_0001_0010_0111#16 = .ok (.subn 0x1#4 0x2#4) := rfl
theorem test_decode_shl : decode 0b1000_0001_0010_1110#16 = .ok (.shl 0x1#4 0x2#4) := rfl
theorem test_decode_sneReg : decode 0b1001_0001_0010_0000#16 = .ok (.sneReg 0x1#4 0x2#4) := rfl
theorem test_decode_ldI : decode 0b1010_0011_0000_0000#16 = .ok (.ldI 0x300#12) := rfl
theorem test_decode_jpV0 : decode 0b1011_0011_0000_0000#16 = .ok (.jpV0 0x300#12) := rfl
theorem test_decode_rnd : decode 0b1100_0001_0000_1111#16 = .ok (.rnd 0x1#4 0x0F#8) := rfl
theorem test_decode_drw : decode 0b1101_0000_0001_0101#16 = .ok (.drw 0x0#4 0x1#4 0x5#4) := rfl
theorem test_decode_skp : decode 0b1110_0001_1001_1110#16 = .ok (.skp 0x1#4) := rfl
theorem test_decode_sknp : decode 0b1110_0001_1010_0001#16 = .ok (.sknp 0x1#4) := rfl
theorem test_decode_ldVxDt : decode 0b1111_0100_0000_0111#16 = .ok (.ldVxDt 0x4#4) := rfl
theorem test_decode_ldVxK : decode 0b1111_0011_0000_1010#16 = .ok (.ldVxK 0x3#4) := rfl
theorem test_decode_ldDtVx : decode 0b1111_0100_0001_0101#16 = .ok (.ldDtVx 0x4#4) := rfl
theorem test_decode_ldStVx : decode 0b1111_0010_0001_1000#16 = .ok (.ldStVx 0x2#4) := rfl
theorem test_decode_addI : decode 0b1111_0001_0001_1110#16 = .ok (.addI 0x1#4) := rfl
theorem test_decode_ldF : decode 0b1111_0101_0010_1001#16 = .ok (.ldF 0x5#4) := rfl
theorem test_decode_ldB : decode 0b1111_0011_0011_0011#16 = .ok (.ldB 0x3#4) := rfl
theorem test_decode_ldMemVx : decode 0b1111_0001_0101_0101#16 = .ok (.ldMemVx 0x1#4) := rfl
theorem test_decode_ldVxMem : decode 0b1111_0010_0110_0101#16 = .ok (.ldVxMem 0x2#4) := rfl

/-- The unrecognised words of vectors F26 to F38, each with its family. -/
theorem test_decode_unrecognised :
    [0x0000#16, 0x00FD#16, 0x01E0#16, 0x0FEE#16].map (fun w => (decode w).toOption) = [none, none, none, none] ∧
      decode 0x5121#16 = .error .family5 ∧ decode 0x9AB7#16 = .error .family9 ∧ decode 0x8008#16 = .error .family8 ∧
      decode 0x812F#16 = .error .family8 ∧ decode 0xE09F#16 = .error .familyE ∧ decode 0xE1FF#16 = .error .familyE ∧
      decode 0xF0FF#16 = .error .familyF ∧ decode 0xF175#16 = .error .familyF ∧ decode 0xF000#16 = .error .familyF :=
  ⟨rfl, rfl, rfl, rfl, rfl, rfl, rfl, rfl, rfl, rfl⟩

theorem test_decodeTableWord :
    decodeTableWord 16 0xD015 = some (.drw 0x0#4 0x1#4 0x5#4) ∧ decodeTableWord 16 0x5121 = none ∧
      decodeTableWord 16 0x800E = some (.shl 0x0#4 0x0#4) := by
  decide

/-- Every row's match word runs as the first instruction after reset. -/
theorem test_rows_run_from_reset :
    (opcodeRows.all fun row => gives row.1.toNat State.reset fun _ => true) = true := by
  decide

/-! ### Control flow -/

/-- F2: underflow, the entry at SP mod 16 is read and SP wraps. -/
theorem test_ret_underflow :
    gives 0x00EE { base with stack := base.stack.set 0 0xBEEF#16 } (fun t => pcIs t 0xBEEF#16 && decide (t.sp = 0xFF#8)) = true := by
  decide

/-- F3: the entry index is SP mod 16. -/
theorem test_ret_index :
    gives 0x00EE { base with sp := 0x11#8, stack := base.stack.set 1 0x0300#16 }
      (fun t => pcIs t 0x0300#16 && decide (t.sp = 0x10#8)) = true := by
  decide

/-- F6: an odd target. -/
theorem test_jp_odd : gives 0x1201 base (pcIs · 0x0201#16) = true := by decide

/-- F8: the sixteenth level uses entry 0. -/
theorem test_call_sixteenth :
    gives 0x2400 { base with sp := 0x0F#8 }
      (fun t => pcIs t 0x0400#16 && decide (t.sp = 0x10#8) && decide (t.stack[0] = 0x0202#16)) = true := by
  decide

/-- F9: SP wraps modulo 256. -/
theorem test_call_wrap :
    gives 0x2400 { base with sp := 0xFF#8 }
      (fun t => pcIs t 0x0400#16 && decide (t.sp = 0x00#8) && decide (t.stack[0] = 0x0202#16)) = true := by
  decide

/-- F11, F12. -/
theorem test_seByte :
    (gives 0x3342 (regs [(0x3#4, 0x42#8)]) (pcIs · 0x0204#16) && gives 0x3343 (regs [(0x3#4, 0x42#8)]) (pcIs · 0x0202#16))
      = true := by
  decide

/-- F20: a skip wraps at 16 bits. -/
theorem test_seByte_wrap : gives 0x3000 { base with pc := 0xFFFE#16 } (pcIs · 0x0002#16) = true := by decide

/-- F13, F14. -/
theorem test_sneByte :
    (gives 0x4342 (regs [(0x3#4, 0x42#8)]) (pcIs · 0x0202#16) && gives 0x4343 (regs [(0x3#4, 0x42#8)]) (pcIs · 0x0204#16))
      = true := by
  decide

/-- F15, F16. -/
theorem test_seReg :
    (gives 0x5120 (regs [(0x1#4, 0x07#8), (0x2#4, 0x07#8)]) (pcIs · 0x0204#16) &&
      gives 0x5120 (regs [(0x1#4, 0x07#8), (0x2#4, 0x08#8)]) (pcIs · 0x0202#16)) = true := by
  decide

/-- F18, F19. -/
theorem test_sneReg :
    (gives 0x9120 (regs [(0x1#4, 0x07#8), (0x2#4, 0x08#8)]) (pcIs · 0x0204#16) &&
      gives 0x9440 (regs [(0x4#4, 0x09#8)]) (pcIs · 0x0202#16)) = true := by
  decide

/-- F23: a 16-bit sum, not reduced to 12 bits. -/
theorem test_jpV0_high : gives 0xBFFF (regs [(0x0#4, 0xFF#8)]) (pcIs · 0x10FE#16) = true := by decide

/-- F24: V0, never Vx. -/
theorem test_jpV0_v0 : gives 0xB200 (regs [(0x0#4, 0x01#8), (0x2#4, 0x10#8)]) (pcIs · 0x0201#16) = true := by decide

/-- F25: a fetch straddles the end of memory. -/
theorem test_fetch_straddles :
    turnGives .cpu (bytesAt { base with pc := 0x0FFF#16 } 0x0FFF#16 [0x6A#8, 0x55#8])
      (fun t => holds t 0xA#4 0x55#8 && pcIs t 0x1001#16) = true := by
  decide

/-- F31: an unrecognised word only advances PC. -/
theorem test_unrecognised :
    gives 0x9AB7 { base with i := 0x0333#16, sp := 0x03#8 }
      (fun t => pcIs t 0x0202#16 && decide (t.i = 0x0333#16) && decide (t.sp = 0x03#8)) = true := by
  decide

/-! ### Registers, arithmetic, logic, shifts, random -/

/-- A1, A2. -/
theorem test_ldByte :
    (gives 0x65AB (regs [(0x5#4, 0x11#8)]) (fun t => holds t 0x5#4 0xAB#8 && pcIs t 0x0202#16) &&
      gives 0x6F00 (regs [(0xF#4, 0x01#8)]) (holds · 0xF#4 0x00#8)) = true := by
  decide

/-- A3: wraps, no carry reported. -/
theorem test_addByte_wraps :
    gives 0x7101 (regs [(0x1#4, 0xFF#8)]) (fun t => holds t 0x1#4 0x00#8 && holds t 0xF#4 0x00#8) = true := by
  decide

/-- A5: VF as a destination holds the sum. -/
theorem test_addByte_flagRegister : gives 0x7F02 (regs [(0xF#4, 0xFF#8)]) (holds · 0xF#4 0x01#8) = true := by decide

/-- A7. -/
theorem test_ldReg : gives 0x8F10 (regs [(0x1#4, 0x11#8), (0xF#4, 0x22#8)]) (holds · 0xF#4 0x11#8) = true := by decide

/-- A8: VF is not written. -/
theorem test_orReg :
    gives 0x8121 (regs [(0x1#4, 0xA5#8), (0x2#4, 0x0F#8), (0xF#4, 0x77#8)])
      (fun t => holds t 0x1#4 0xAF#8 && holds t 0xF#4 0x77#8) = true := by
  decide

/-- A9. -/
theorem test_andReg :
    gives 0x8122 (regs [(0x1#4, 0xA5#8), (0x2#4, 0x0F#8), (0xF#4, 0x77#8)])
      (fun t => holds t 0x1#4 0x05#8 && holds t 0xF#4 0x77#8) = true := by
  decide

/-- A10. -/
theorem test_xorReg :
    gives 0x8123 (regs [(0x1#4, 0xA5#8), (0x2#4, 0x0F#8), (0xF#4, 0x77#8)])
      (fun t => holds t 0x1#4 0xAA#8 && holds t 0xF#4 0x77#8) = true := by
  decide

/-- S1: the source's own example. -/
theorem test_addReg_carry :
    gives 0x8124 (regs [(0x1#4, 0xFF#8), (0x2#4, 0x01#8)]) (fun t => holds t 0x1#4 0x00#8 && holds t 0xF#4 0x01#8) = true := by
  decide

/-- A14: with x = F the sum overwrites the flag. -/
theorem test_addReg_flagRegister : gives 0x8F14 (regs [(0xF#4, 0x10#8), (0x1#4, 0xF5#8)]) (holds · 0xF#4 0x05#8) = true := by
  decide

/-- S4: the source's own example. -/
theorem test_subReg_borrow :
    gives 0x8125 (regs [(0x1#4, 0x03#8), (0x2#4, 0x05#8)]) (fun t => holds t 0x1#4 0xFE#8 && holds t 0xF#4 0x00#8) = true := by
  decide

/-- A20: with y = F the old VF is the operand. -/
theorem test_subReg_oldFlag :
    gives 0x81F5 (regs [(0x1#4, 0x05#8), (0xF#4, 0x09#8)]) (fun t => holds t 0x1#4 0xFC#8 && holds t 0xF#4 0x00#8) = true := by
  decide

/-- A22, A23: the two variants. -/
theorem test_shr :
    (gives 0x8126 (regs [(0x1#4, 0xEE#8), (0x2#4, 0x05#8)])
        (fun t => holds t 0x1#4 0x02#8 && holds t 0xF#4 0x01#8 && holds t 0x2#4 0x05#8) &&
      gives 0x8126 (schip8 (regs [(0x1#4, 0xEE#8), (0x2#4, 0x05#8)]))
        (fun t => holds t 0x1#4 0x77#8 && holds t 0xF#4 0x00#8 && holds t 0x2#4 0x05#8)) = true := by
  decide

/-- A26: with x = F the flag overwrites the result. -/
theorem test_shr_flagRegister : gives 0x8F26 (regs [(0x2#4, 0x05#8), (0xF#4, 0x77#8)]) (holds · 0xF#4 0x01#8) = true := by decide

/-- A30, A31. -/
theorem test_subn :
    (gives 0x8127 (regs [(0x1#4, 0x03#8), (0x2#4, 0x05#8)]) (fun t => holds t 0x1#4 0x02#8 && holds t 0xF#4 0x01#8) &&
      gives 0x8127 (regs [(0x1#4, 0x05#8), (0x2#4, 0x03#8), (0xF#4, 0x01#8)])
        (fun t => holds t 0x1#4 0xFE#8 && holds t 0xF#4 0x00#8)) = true := by
  decide

/-- A32: equal operands, no borrow. -/
theorem test_subn_equal :
    gives 0x8127 (regs [(0x1#4, 0x09#8), (0x2#4, 0x09#8)]) (fun t => holds t 0x1#4 0x00#8 && holds t 0xF#4 0x01#8) = true := by
  decide

/-- A34, A35: the two variants. -/
theorem test_shl :
    (gives 0x812E (regs [(0x1#4, 0x00#8), (0x2#4, 0x81#8)]) (fun t => holds t 0x1#4 0x02#8 && holds t 0xF#4 0x01#8) &&
      gives 0x812E (schip8 (regs [(0x1#4, 0x40#8), (0x2#4, 0x81#8)]))
        (fun t => holds t 0x1#4 0x80#8 && holds t 0xF#4 0x00#8)) = true := by
  decide

/-- A37: with x = F the flag overwrites the result. -/
theorem test_shl_flagRegister : gives 0x8F2E (regs [(0x2#4, 0xC0#8), (0xF#4, 0x55#8)]) (holds · 0xF#4 0x01#8) = true := by decide

/-- A39, A42: the mask, with the drawn byte given. -/
theorem test_rnd :
    (holds (rndWith 0xA7#8 0x1#4 0x0F#8 (regs [(0x1#4, 0xFF#8)])) 0x1#4 0x07#8 &&
      holds (rndWith 0xFF#8 0xF#4 0x81#8 base) 0xF#4 0x81#8) = true := by
  decide

/-- A40: under a zero mask the result is certain, and the draw is used up. -/
theorem test_rnd_zeroMask :
    gives 0xC100 (regs [(0x1#4, 0xFF#8)]) (fun t => decide (t.draws = 1) && pcIs t 0x0202#16) = true := by decide

/-! ### Index register and memory -/

/-- M1. -/
theorem test_ldI : gives 0xA300 { base with i := 0xFFFF#16 } (fun t => decide (t.i = 0x0300#16)) = true := by decide

/-- M5: no VF on a 16-bit wrap. -/
theorem test_addI_wrap :
    gives 0xF11E { regs [(0x1#4, 0x01#8)] with i := 0xFFFF#16 } (fun t => decide (t.i = 0x0000#16) && holds t 0xF#4 0x00#8) = true := by
  decide

/-- M4: no VF on a 12-bit overflow. -/
theorem test_addI_twelveBits :
    gives 0xF11E { regs [(0x1#4, 0x01#8)] with i := 0x0FFF#16 } (fun t => decide (t.i = 0x1000#16) && holds t 0xF#4 0x00#8) = true := by
  decide

/-- M9. -/
theorem test_ldF_last : gives 0xF029 (regs [(0x0#4, 0x0F#8)]) (fun t => decide (t.i = 0x004B#16)) = true := by decide

/-- M11: unmasked. -/
theorem test_ldF_unmasked : gives 0xF029 (regs [(0x0#4, 0xFF#8)]) (fun t => decide (t.i = 0x04FB#16)) = true := by decide

/-- S9: the source's own example; I is unchanged. -/
theorem test_ldB :
    gives 0xF333 { regs [(0x3#4, 0xEA#8)] with i := 0x0300#16 }
      (fun t => bytesAre t 0x0300#16 [0x02#8, 0x03#8, 0x04#8] && decide (t.i = 0x0300#16)) = true := by
  decide

/-- M16: the addresses wrap into the glyph table. -/
theorem test_ldB_wrap :
    gives 0xF333 { regs [(0x3#4, 0xC7#8)] with i := 0x0FFF#16 }
      (fun t => bytesAre t 0x0FFF#16 [0x01#8] && bytesAre t 0x0000#16 [0x09#8, 0x09#8]) = true := by
  decide

/-- M18, M19: the two variants. -/
theorem test_ldMemVx :
    (gives 0xF155 { regs [(0x0#4, 0x6A#8), (0x1#4, 0x55#8)] with i := 0x0300#16 }
        (fun t => bytesAre t 0x0300#16 [0x6A#8, 0x55#8] && decide (t.i = 0x0302#16)) &&
      gives 0xF155 (schip8 { regs [(0x0#4, 0x6A#8), (0x1#4, 0x55#8)] with i := 0x0300#16 })
        (fun t => bytesAre t 0x0300#16 [0x6A#8, 0x55#8] && decide (t.i = 0x0300#16))) = true := by
  decide

/-- M22: the addresses wrap, I does not. -/
theorem test_ldMemVx_wrap :
    gives 0xF155 { regs [(0x0#4, 0x12#8), (0x1#4, 0x34#8)] with i := 0x0FFF#16 }
      (fun t => bytesAre t 0x0FFF#16 [0x12#8] && bytesAre t 0x0000#16 [0x34#8] && decide (t.i = 0x1001#16)) = true := by
  decide

/-- M27: reads glyph 0. -/
theorem test_ldVxMem :
    gives 0xF465 base (fun t => holds t 0x0#4 0xF0#8 && holds t 0x1#4 0x90#8 && holds t 0x4#4 0xF0#8 &&
      holds t 0x5#4 0x00#8 && decide (t.i = 0x0005#16)) = true := by
  decide

/-- M29 (chip8), and its schip8 reading of R125. -/
theorem test_ldVxMem_wrap :
    (gives 0xF165 (bytesAt { base with i := 0x0FFF#16 } 0x0FFF#16 [0x77#8])
        (fun t => holds t 0x0#4 0x77#8 && holds t 0x1#4 0xF0#8 && decide (t.i = 0x1001#16)) &&
      gives 0xF165 (schip8 (bytesAt { base with i := 0x0FFF#16 } 0x0FFF#16 [0x77#8]))
        (fun t => holds t 0x0#4 0x77#8 && decide (t.i = 0x0FFF#16))) = true := by
  decide

/-! ### Display -/

/-- X1, on a display with one pixel on and one faded. -/
theorem test_cls :
    gives 0x00E0 { base with pix := (Display.setPixel (Display.setPixel blankDisplay 3 5 ⟨true, 0⟩) 3 6 ⟨false, 2⟩) }
      (fun t => rowIs t 3 [] && decide ((t.pixel 3 6).fade = 0)) = true := by
  decide

/-- S7, S8: the source's own example, both policies. -/
theorem test_drw_edges :
    (gives 0xD011 (bytesAt { regs [(0x0#4, 0x3C#8)] with i := 0x0300#16 } 0x0300#16 [0xFF#8])
        (fun t => rowIs t 0 [60, 61, 62, 63, 0, 1, 2, 3] && holds t 0xF#4 0x00#8) &&
      gives 0xD011 (clip (bytesAt { regs [(0x0#4, 0x3C#8)] with i := 0x0300#16 } 0x0300#16 [0xFF#8]))
        (fun t => rowIs t 0 [60, 61, 62, 63] && holds t 0xF#4 0x00#8)) = true := by
  decide

/-- X6: a collision on a wrapped pixel, and its fade. -/
theorem test_drw_collision :
    gives 0xD011 (bytesAt { regs [(0x0#4, 0x3C#8)] with i := 0x0300#16, pix := Display.setPixel blankDisplay 0 0 ⟨true, 0⟩ }
        0x0300#16 [0xFF#8])
      (fun t => rowIs t 0 [1, 2, 3, 60, 61, 62, 63] && decide ((t.pixel 0 0).fade = 3) && holds t 0xF#4 0x01#8) = true := by
  decide

/-- The fade sequence after X12: 3 goes to 2, and 0 stays 0. -/
theorem test_frame :
    turnGives .frame { base with pix := Display.setPixel blankDisplay 0 0 ⟨false, 3⟩ }
      (fun t => decide ((t.pixel 0 0).fade = 2) && decide ((t.pixel 0 1).fade = 0)) = true := by
  decide

/-! ### Keys and timers -/

/-- K1, K2. -/
theorem test_skp :
    (gives 0xE19E (keysDown (regs [(0x1#4, 0x05#8)]) [0x5#4]) (pcIs · 0x0204#16) &&
      gives 0xE19E (keysDown (regs [(0x1#4, 0x05#8)]) [0x6#4]) (pcIs · 0x0202#16)) = true := by
  decide

/-- K5: no key 15, no masking. -/
theorem test_skp_noMask : gives 0xE19E (keysDown (regs [(0x1#4, 0x15#8)]) [0x5#4]) (pcIs · 0x0202#16) = true := by decide

/-- K3, K4. -/
theorem test_sknp :
    (gives 0xE1A1 (keysDown (regs [(0x1#4, 0x05#8)]) [0x5#4]) (pcIs · 0x0202#16) &&
      gives 0xE1A1 (regs [(0x1#4, 0x05#8)]) (pcIs · 0x0204#16)) = true := by
  decide

/-- K6. -/
theorem test_sknp_noMask : gives 0xE1A1 (keysDown (regs [(0x1#4, 0x15#8)]) [0x5#4]) (pcIs · 0x0204#16) = true := by decide

/-- K8: a held key does not complete the wait. -/
theorem test_ldVxK_entry :
    gives 0xF30A { keysDown (regs [(0x3#4, 0xAB#8)]) [0x2#4] with lastKey := some 0x2#4 }
      (fun t => decide (t.cpuMode = .waitKey) && decide (t.lastKey = none) && pcIs t 0x0200#16 && holds t 0x3#4 0xAB#8) = true := by
  decide

/-- K11: the completion step. -/
theorem test_ldVxK_completion :
    turnGives .cpu (bytesAt { base with cpuMode := .waitKey, lastKey := some 0x7#4 } 0x0200#16 [0xF3#8, 0x0A#8])
      (fun t => decide (t.cpuMode = .run) && pcIs t 0x0202#16 && holds t 0x3#4 0x07#8) = true := by
  decide

/-- K10, K9. -/
theorem test_key_events :
    (turnGives (.press 0x7#4) base (fun t => t.keys[7] && decide (t.lastKey = some 0x7#4)) &&
      turnGives (.release 0x2#4) (keysDown base [0x2#4]) (fun t => !t.keys[2] && decide (t.lastKey = none))) = true := by
  decide

/-- K13. -/
theorem test_ldVxDt : gives 0xF407 { base with dt := 0x2A#8 } (holds · 0x4#4 0x2A#8) = true := by decide

/-- K14, K15. -/
theorem test_ldDtVx :
    (gives 0xF015 (regs [(0x0#4, 0x03#8)]) (fun t => decide (t.dt = 0x03#8) && t.delayRunning) &&
      gives 0xF015 { base with dt := 0x09#8 } (fun t => decide (t.dt = 0x00#8) && !t.delayRunning)) = true := by
  decide

/-- K19, K21. -/
theorem test_ldStVx :
    (gives 0xF218 (regs [(0x2#4, 0x1E#8)]) (fun t => decide (t.st = 0x1E#8) && t.tone) &&
      gives 0xF218 { base with st := 0x1E#8 } (fun t => decide (t.st = 0x00#8) && !t.tone)) = true := by
  decide

/-- K16, K18. -/
theorem test_delayTick :
    (turnGives .delayTick { base with dt := 0x03#8 } (fun t => decide (t.dt = 0x02#8)) &&
      turnGives .delayTick base (fun t => decide (t.dt = 0x00#8))) = true := by
  decide

/-- K23, K24. -/
theorem test_soundTick_and_stop :
    (turnGives .soundTick { base with st := 0x01#8 } (fun t => decide (t.st = 0x00#8) && !t.tone) &&
      turnGives .stop { base with st := 0x05#8 } (fun t => decide (t.st = 0x05#8) && !t.tone && !t.running)) = true := by
  decide

/-! ### Witnesses: for every statement with hypotheses, states and operands that meet them -/

/-- `base` with a word at PC and a turn of the CPU next. -/
def on (w : Nat) (s : State) : State := s.withFetchWord 16 w

/-- A turn of an agent next. -/
def withTurn (turn : Turn) (s : State) : State := { s with turns := turn :: s.turns }

/-- `base` waiting for a key at LD V3,K. -/
def waiting (k : Option KeyCode) : State :=
  withTurn .cpu { bytesAt base 0x0200#16 [0xF3#8, 0x0A#8] with cpuMode := .waitKey, lastKey := k }

/-- `base` with pixel (0, 0) on. -/
def lit : State := { base with pix := Display.setPixel blankDisplay 0 0 { on := true, fade := 0 } }

theorem witness_DecodeOfEncodeIsIdentity : (Instr.drw 0xF#4 0xE#4 0x7#4).wellFormed = true := by decide

theorem witness_EncodeOfDecodeIsIdentity : decode 0xDFE7#16 = .ok (.drw 0xF#4 0xE#4 0x7#4) := rfl

theorem witness_DecoderFollowsTheOpcodeTable :
    decode 0x81FE#16 = .ok (.shl 0x1#4 0xF#4) ∧ (0x800E#16, 0xF00F#16) ∈ opcodeRows ∧
      matchesRow 0x81FE#16 (0x800E#16, 0xF00F#16) = true :=
  ⟨rfl, by decide, by decide⟩

theorem witness_StepRunsTheDecodedInstruction :
    (on 0x6F01 base).running = true ∧ (on 0x6F01 base).nextTurn = .cpu ∧ (on 0x6F01 base).cpuMode = .run ∧
      (Instr.ldByte 0xF#4 0x01#8).wellFormed = true ∧
      decodeBytes ((on 0x6F01 base).readByte (on 0x6F01 base).pc) ((on 0x6F01 base).readByte ((on 0x6F01 base).pc + 1#16))
        = .ok (.ldByte 0xF#4 0x01#8) :=
  ⟨rfl, rfl, rfl, by decide, rfl⟩

theorem witness_UnrecognisedWordOnlyAdvancesPc :
    (on 0x5121 base).running = true ∧ (on 0x5121 base).nextTurn = .cpu ∧ (on 0x5121 base).cpuMode = .run ∧
      decodeBytes ((on 0x5121 base).readByte (on 0x5121 base).pc) ((on 0x5121 base).readByte ((on 0x5121 base).pc + 1#16))
        = .error .family5 :=
  ⟨rfl, rfl, rfl, rfl⟩

theorem witness_OnlyTheStoppedMachineHasNoStep : base.running = true ∧ base.stop.running = false := ⟨rfl, rfl⟩

theorem witness_KeyWaitCompletesWithTheLastKey :
    (waiting (some 0x7#4)).running = true ∧ (waiting (some 0x7#4)).nextTurn = .cpu ∧
      (waiting (some 0x7#4)).cpuMode = .waitKey ∧ (waiting (some 0x7#4)).lastKey = some 0x7#4 :=
  ⟨rfl, rfl, rfl, rfl⟩

theorem witness_KeyWaitCompletesWithTheLastKey_noKey :
    (waiting none).running = true ∧ (waiting none).nextTurn = .cpu ∧ (waiting none).cpuMode = .waitKey ∧
      (waiting none).lastKey = none :=
  ⟨rfl, rfl, rfl, rfl⟩

theorem witness_KeyWaitEndsWithAPressAfterEntry :
    let s := { bytesAt base 0x0200#16 [0xF3#8, 0x0A#8] with turns := [.cpu, .press 0x7#4, .cpu] }
    s.running = true ∧ s.cpuMode = .run ∧ s.turns = [.cpu, .press 0x7#4, .cpu] ++ [] ∧
      decode s.fetchWord = .ok (.ldVxK 0x3#4) :=
  ⟨rfl, rfl, rfl, rfl⟩

theorem witness_TicksCountDownToZero :
    base.running = true ∧ (withTurn .delayTick base).nextTurn = .delayTick ∧
      (withTurn .soundTick { base with st := 0x01#8 }).nextTurn = .soundTick :=
  ⟨rfl, rfl, rfl⟩

/-- One tick before the timer runs out, and at the tick it does. -/
theorem witness_DelayTimerRunsOutAfterItsValueInTicks :
    (∃ s : State, s.running = true ∧ s.dt = 0x03#8 ∧ s.turns = List.replicate 2 .delayTick ++ []) ∧
      ∃ s : State, s.running = true ∧ s.dt = 0x03#8 ∧ s.turns = List.replicate 3 .delayTick ++ [.cpu] :=
  ⟨⟨{ base with dt := 0x03#8, turns := List.replicate 2 .delayTick ++ [] }, rfl, rfl, rfl⟩,
   ⟨{ base with dt := 0x03#8, turns := List.replicate 3 .delayTick ++ [.cpu] }, rfl, rfl, rfl⟩⟩

theorem witness_PressSetsItsKey :
    (withTurn (.press 0xF#4) base).running = true ∧ (withTurn (.press 0xF#4) base).nextTurn = .press 0xF#4 :=
  ⟨rfl, rfl⟩

theorem witness_ReleaseClearsItsKey :
    (withTurn (.release 0x0#4) base).running = true ∧ (withTurn (.release 0x0#4) base).nextTurn = .release 0x0#4 :=
  ⟨rfl, rfl⟩

theorem witness_FrameDecaysOffPixels : (withTurn .frame lit).running = true ∧ (withTurn .frame lit).nextTurn = .frame :=
  ⟨rfl, rfl⟩

theorem witness_StopEndsTheRun : (withTurn .stop base).running = true ∧ (withTurn .stop base).nextTurn = .stop := ⟨rfl, rfl⟩

theorem witness_ToneEdgesHaveTheirCauses_rise :
    (on 0xF218 (regs [(0x2#4, 0x1E#8)])).tone = false ∧
      ∃ t, step (on 0xF218 (regs [(0x2#4, 0x1E#8)])) = .next t ∧ t.tone = true :=
  ⟨rfl, _, rfl, rfl⟩

theorem witness_ToneEdgesHaveTheirCauses_fall :
    (∃ t, step (withTurn .soundTick { base with st := 0x01#8 }) = .next t ∧ t.tone = false) ∧
      (∃ t, step (on 0xF218 { base with st := 0x01#8 }) = .next t ∧ t.tone = false) ∧
      (∃ t, step (withTurn .stop { base with st := 0x01#8 }) = .next t ∧ t.tone = false) ∧
      State.tone { base with st := 0x01#8 } = true :=
  ⟨⟨_, rfl, rfl⟩, ⟨_, rfl, rfl⟩, ⟨_, rfl, rfl⟩, rfl⟩

theorem witness_OtherAgentsLeaveTheProgramState :
    (∃ t, step (withTurn .delayTick { base with dt := 0x01#8 }) = .next t ∧ t.dt ≠ 0x01#8) ∧
      (∃ t, step (withTurn .soundTick { base with st := 0x01#8 }) = .next t ∧ t.st ≠ 0x01#8) ∧
      (∃ t, step (withTurn .stop base) = .next t ∧ t.running ≠ base.running) ∧
      (∃ t, step (withTurn (.press 0x0#4) base) = .next t ∧ t.keys[0] ≠ base.keys[0] ∧ t.lastKey ≠ base.lastKey) ∧
      (∃ t, step (withTurn (.release 0x0#4) (keysDown base [0x0#4])) = .next t ∧ t.keys[0] = false) ∧
      (withTurn .frame base).nextTurn ≠ .cpu :=
  ⟨⟨_, rfl, by decide⟩, ⟨_, rfl, by decide⟩, ⟨_, rfl, by decide⟩, ⟨_, rfl, by decide, by decide⟩, ⟨_, rfl, by decide⟩,
   by decide⟩

/-- A frame changes the display of a machine with a faded pixel. -/
theorem witness_OtherAgentsLeaveTheProgramState_frame :
    ∃ t, step (withTurn .frame { base with pix := Display.setPixel blankDisplay 0 0 ⟨false, 3⟩ }) = .next t ∧
      t.pix ≠ Display.setPixel blankDisplay 0 0 ⟨false, 3⟩ :=
  ⟨_, rfl, fun h => absurd (congrArg (fun d => (d[0][0] : Pixel).fade) h) (by decide)⟩

theorem witness_OnlyItsInstructionsReachEachUnit :
    (∃ t, step (on 0x00EE base) = .next t ∧ t.sp ≠ base.sp) ∧
      (∃ t, step (on 0x2400 base) = .next t ∧ t.stack[1] ≠ base.stack[1]) ∧
      (∃ t, step (on 0xF015 (regs [(0x0#4, 0x03#8)])) = .next t ∧ t.dt ≠ base.dt) ∧
      (∃ t, step (on 0xF018 (regs [(0x0#4, 0x03#8)])) = .next t ∧ t.st ≠ base.st) ∧
      (∃ t, step (on 0xF00A { base with lastKey := some 0x1#4 }) = .next t ∧ t.lastKey ≠ some 0x1#4) ∧
      (∃ t, step (on 0xF033 base) = .next t ∧ t.readByte 0x0000#16 ≠ base.readByte 0x0000#16) ∧
      (∃ t, step (on 0xF055 base) = .next t ∧ t.readByte 0x0000#16 ≠ base.readByte 0x0000#16) ∧
      (∃ t, step (on 0x00E0 lit) = .next t ∧ (t.pixel 0 0).on ≠ (lit.pixel 0 0).on) ∧
      (∃ t, step (on 0xD015 lit) = .next t ∧ (t.pixel 0 0).on ≠ (lit.pixel 0 0).on) :=
  ⟨⟨_, rfl, by decide⟩, ⟨_, rfl, by decide⟩, ⟨_, rfl, by decide⟩, ⟨_, rfl, by decide⟩, ⟨_, rfl, by decide⟩,
   ⟨_, rfl, by decide⟩, ⟨_, rfl, by decide⟩, ⟨_, rfl, by decide⟩, ⟨_, rfl, by decide⟩⟩

theorem witness_StrapsNeverChange : ∃ t, step (on 0x00E0 base) = .next t := ⟨_, rfl⟩

theorem witness_FlagRegisterIsWrittenOnlyAsTheRulesSay :
    (∃ t, exec (.addReg 0x1#4 0x2#4) (regs [(0x1#4, 0xFF#8), (0x2#4, 0x01#8)]) = .next t ∧ t.reg 0xF#4 ≠ 0x00#8) ∧
      (∃ t, exec (.ldVxMem 0xF#4) { base with i := 0x0000#16 } = .next t ∧ t.reg 0xF#4 ≠ 0x00#8) ∧
      definesFlag (.addReg 0x1#4 0x2#4) = true ∧ 0xF#4 ∉ destinations (.addReg 0x1#4 0x2#4) ∧
      (∃ t, step (on 0x6F01 base) = .next t ∧ t.reg 0xF#4 ≠ base.reg 0xF#4) ∧
      (∃ t, step (withTurn .cpu
          { bytesAt base 0x0200#16 [0xFF#8, 0x0A#8] with cpuMode := .waitKey, lastKey := some 0x7#4 }) = .next t ∧
        t.reg 0xF#4 ≠ base.reg 0xF#4) :=
  ⟨⟨_, rfl, by decide⟩, ⟨_, rfl, by decide⟩, by decide, by decide, ⟨_, rfl, by decide⟩, ⟨_, rfl, by decide⟩⟩

/-- The invariant is met by a state with a pixel on, and by one with a pixel fading. -/
theorem witness_EveryStepKeepsTheInvariant :
    Inv (on 0xD015 lit) ∧ (∃ t, step (on 0xD015 lit) = .next t) ∧
      Inv { base with pix := Display.setPixel blankDisplay 0 0 ⟨false, 3⟩ } := by
  refine ⟨⟨by decide, fun r c => ?_⟩, ⟨_, rfl⟩, ⟨by decide, fun r c => ?_⟩⟩
  · show ((Display.setPixel blankDisplay 0 0 ⟨true, 0⟩)[r][c].on = true →
        (Display.setPixel blankDisplay 0 0 ⟨true, 0⟩)[r][c].fade = 0) ∧
      (Display.setPixel blankDisplay 0 0 ⟨true, 0⟩)[r][c].fade ≤ 3
    rw [setPixel_get]
    split <;> simp [blankPixel]
  · show ((Display.setPixel blankDisplay 0 0 ⟨false, 3⟩)[r][c].on = true →
        (Display.setPixel blankDisplay 0 0 ⟨false, 3⟩)[r][c].fade = 0) ∧
      (Display.setPixel blankDisplay 0 0 ⟨false, 3⟩)[r][c].fade ≤ 3
    rw [setPixel_get]
    split <;> simp [blankPixel]

theorem witness_FadeIsCosmetic :
    AgreeButFade base { base with pix := Display.setPixel blankDisplay 0 0 ⟨false, 3⟩ } ∧
      (State.pixel { base with pix := Display.setPixel blankDisplay 0 0 ⟨false, 3⟩ } 0 0).fade ≠ (base.pixel 0 0).fade := by
  refine ⟨⟨rfl, fun r c => ?_⟩, by decide⟩
  show (Display.setPixel blankDisplay 0 0 ⟨false, 3⟩)[r][c].on = blankDisplay[r][c].on
  rw [setPixel_get]
  split <;> simp [blankPixel]

theorem witness_PixelStatusIsTheXorOfDraws :
    (∃ t, step (on 0x00E0 lit) = .next t ∧ executing (on 0x00E0 lit) = some .cls) ∧
      (∃ t, step (on 0xD015 lit) = .next t ∧ executing (on 0xD015 lit) = some (.drw 0x0#4 0x1#4 0x5#4)) ∧
      (∃ t, step (withTurn .frame lit) = .next t ∧ executing (withTurn .frame lit) = none) :=
  ⟨⟨_, rfl, rfl⟩, ⟨_, rfl, rfl⟩, ⟨_, rfl, rfl⟩⟩

theorem witness_LaunchLoadsTheProgram :
    wellFormedProgram [0x12#8] = true ∧ wellFormedProgram (List.replicate 0xE00 0x00#8) = true :=
  ⟨by decide, test_program_longest⟩

/-- The address clauses for the program 12 00, each at the ends of its range. -/
theorem witness_LaunchLoadsTheProgram_addresses :
    (0x004F#16).toNat < 0x050 ∧ 0x050 ≤ (0x0050#16).toNat ∧ (0x01FF#16).toNat < 0x200 ∧
      0x200 ≤ (0x0200#16).toNat ∧ (0x0201#16).toNat - 0x200 < [0x12#8, 0x00#8].length ∧
      0x200 + [0x12#8, 0x00#8].length ≤ (0x0202#16).toNat ∧ (0x0FFF#16).toNat < 0x1000 := by
  decide

theorem witness_LaunchRefusesBadLengths :
    ([] : List Byte).length = 0 ∧ 0xE00 < (List.replicate 0xE01 0x00#8 : List Byte).length :=
  ⟨rfl, by rw [List.length_replicate]; decide⟩

theorem witness_RetPopsTheReturnAddress : (0xF : Fin 16).val = ({ base with sp := 0xFF#8 } : State).sp.toNat % 16 := by decide

theorem witness_SixteenNestedCallsReturn :
    (1 ≤ [0x300#12].length ∧ [0x300#12].length ≤ 16) ∧
      1 ≤ (List.replicate 16 0x300#12).length ∧ (List.replicate 16 0x300#12).length ≤ 16 := by
  decide

theorem witness_AddSetsCarry : (0xE#4 : RegNum) ≠ 0xF#4 := by decide

theorem witness_SubtractionsSetNoBorrow : (0x0#4 : RegNum) ≠ 0xF#4 := by decide

theorem witness_ShiftsFollowTheVariant :
    0x05#8 = (if base.straps.variant = .chip8 then (regs [(0x2#4, 0x05#8)]).reg 0x2#4 else 0x00#8) ∧
      0xEE#8 = (if (schip8 base).straps.variant = .chip8 then 0x00#8 else (regs [(0x1#4, 0xEE#8)]).reg 0x1#4) ∧
      (0x1#4 : RegNum) ≠ 0xF#4 := by
  decide

theorem witness_DecimalDigitsAreStored : Memory.wf (regs [(0x3#4, 0xEA#8)]).mem = true := by decide

theorem witness_RegistersAreStored :
    Memory.wf (bytesAt base 0x0FFF#16 [0x01#8, 0x02#8]).mem = true ∧ (0xF#4 : RegNum).toNat ≤ (0xF#4 : RegNum).toNat := by
  decide

theorem witness_StoreThenLoadRestoresRegisters : Memory.wf (schip8 base).mem = true := by decide

theorem witness_StoreIsSeenByTheNextFetch :
    Memory.wf base.mem = true ∧ State.i { base with i := 0x0202#16 } = base.pc + 2#16 := by
  decide

theorem witness_FetchUsesPcModulo4096 : (0xF200#16).toNat % 4096 = base.pc.toNat % 4096 := by decide

/-- A sprite bit that wraps past both edges. -/
theorem witness_WrapDrawsEverySpriteBit :
    let s := regs [(0x0#4, 0x3C#8), (0x1#4, 0x1F#8)]
    s.straps.drawPolicy = .wrap ∧ 1 < (0x2#4 : RowCount).toNat ∧ 7 < 8 ∧
      (0 : Fin 32).val = ((s.reg 0x1#4).toNat + 1) % 32 ∧ (3 : Fin 64).val = ((s.reg 0x0#4).toNat + 7) % 64 := by
  decide

/-- The last bit on the grid, and a pixel before the start. -/
theorem witness_ClipDrawsOnlyOnTheGrid :
    let s := clip (regs [(0x0#4, 0x3C#8), (0x1#4, 0x1F#8)])
    s.straps.drawPolicy = .clip ∧ 0 < (0x2#4 : RowCount).toNat ∧ 3 < 8 ∧
      (31 : Fin 32).val = (s.reg 0x1#4).toNat % 32 + 0 ∧ (63 : Fin 64).val = (s.reg 0x0#4).toNat % 64 + 3 ∧
      ((0 : Fin 32).val < (s.reg 0x1#4).toNat % 32 ∨ (59 : Fin 64).val < (s.reg 0x0#4).toNat % 64) := by
  decide

theorem witness_DrawingTwiceRestoresTheDisplay : (0x0#4 : RegNum) ≠ 0xF#4 ∧ (0x1#4 : RegNum) ≠ 0xF#4 := by decide

/-- A key that is down, and a value that names no key. -/
theorem witness_KeySkips :
    (true = true ↔ ∃ k : KeyCode, ((regs [(0x1#4, 0x05#8)]).reg 0x1#4).toNat = k.toNat ∧
        (keysDown base [0x5#4]).keys[k.toNat] = true) ∧
      (false = true ↔ ∃ k : KeyCode, ((regs [(0x1#4, 0x15#8)]).reg 0x1#4).toNat = k.toNat ∧
        (keysDown base [0x5#4]).keys[k.toNat] = true) := by
  refine ⟨⟨fun _ => ⟨0x5#4, by decide, by decide⟩, fun _ => rfl⟩, ⟨fun h => absurd h (by decide), ?_⟩⟩
  rintro ⟨k, h, -⟩
  have h15 : ((regs [(0x1#4, 0x15#8)]).reg 0x1#4).toNat = 0x15 := by decide
  have := k.isLt
  omega

end Sys2Proof.Tests
end

section
/-! SUPPORT. Jumps and skips (40_flow.md): what writing PC leaves unchanged, where a skip and a jump's operands put PC, and the
statements about JP, the compares and JP V0. -/

namespace Sys2Proof.Machine

/-! ### Operands -/

@[simp] theorem zextByte_toNat (b : Byte) : (zextByte b).toNat = b.toNat :=
  BitVec.toNat_setWidth_of_le (by decide)

@[simp] theorem zextAddr_toNat (nnn : Addr) : (zextAddr nnn).toNat = nnn.toNat :=
  BitVec.toNat_setWidth_of_le (by decide)

/-- A byte plus a 12-bit address stays below 65536, so the sum in a word does not wrap. -/
theorem zextByte_add_zextAddr_toNat (b : Byte) (nnn : Addr) :
    (zextByte b + zextAddr nnn).toNat = b.toNat + nnn.toNat := by
  have hb := b.isLt
  have hn := nnn.isLt
  rw [BitVec.toNat_add, zextByte_toNat, zextAddr_toNat]
  omega

/-! ### The frame of a jump and of a skip -/

theorem sameButPc_setPc (s : State) (w : Word) : SameButPc s (s.setPc w) :=
  have devices : SameDevices s (s.setPc w) :=
    ⟨s.setPc_pixel w, ⟨s.setPc_dt w, s.setPc_st w⟩, ⟨s.setPc_keys w, s.setPc_lastKey w⟩,
      ⟨s.setPc_running w, s.setPc_cpuMode w, s.setPc_straps w⟩,
      ⟨s.setPc_draws w, s.setPc_turns w, s.setPc_turnsDrawn w⟩⟩
  ⟨s.setPc_reg w, s.setPc_i w, ⟨s.setPc_sp w, s.setPc_stack w⟩, s.setPc_readByte w, devices⟩

theorem sameButPc_skipIf (s : State) (c : Bool) : SameButPc s (s.skipIf c) := sameButPc_setPc s _

/-! ### Skips -/

theorem skipIf_pc_toNat (s : State) (c : Bool) :
    (s.skipIf c).pc.toNat = (s.pc.toNat + if c = true then 4 else 2) % 65536 := by
  rw [State.skipIf_pc, BitVec.toNat_add]
  cases c <;> rfl

/-- An instruction that skips on a test adds 4 to PC where the condition the test decides holds, else 2, and changes nothing
else (R14, R84). -/
theorem exec_skips {i : Instr} {s : State} {c : Bool} {p : Prop} [Decidable p] (he : exec i s = .next (s.skipIf c))
    (hc : c = true ↔ p) :
    ∃ t, exec i s = .next t ∧ SameButPc s t ∧ t.pc.toNat = (s.pc.toNat + if p then 4 else 2) % 65536 :=
  ⟨s.skipIf c, he, sameButPc_skipIf s c, by simp only [skipIf_pc_toNat, hc]⟩

/-- The test for equal bytes decides that their values are equal. -/
theorem decide_eq_iff_toNat (a b : Byte) : decide (a = b) = true ↔ a.toNat = b.toNat := by
  rw [decide_eq_true_iff, BitVec.toNat_inj]

/-- The test for different bytes decides that their values differ. -/
theorem decide_ne_iff_toNat (a b : Byte) : decide (a ≠ b) = true ↔ ¬ a.toNat = b.toNat := by
  rw [decide_eq_true_iff, BitVec.toNat_inj]

/-! ### The statements -/

/-- Settles O32: JP writes PC alone, and widening the address keeps its value. -/
theorem jumpSetsPc : Obligations.JumpSetsPc := by
  intro nnn s
  exact ⟨s.setPc (zextAddr nnn), rfl, zextAddr_toNat nnn, sameButPc_setPc s _⟩

/-- Settles O35: each compare is a skip on a test of two bytes; for SNE the two distances change places. -/
theorem compareSkips : Obligations.CompareSkips := by
  intro x y kk s
  refine ⟨?seByte, ?sneByte, ?seReg, ?sneReg⟩
  case seByte => exact exec_skips rfl (decide_eq_iff_toNat (s.reg x) kk)
  case sneByte => simpa only [ite_not] using exec_skips (i := .sneByte x kk) rfl (decide_ne_iff_toNat (s.reg x) kk)
  case seReg => exact exec_skips rfl (decide_eq_iff_toNat (s.reg x) (s.reg y))
  case sneReg => simpa only [ite_not] using exec_skips (i := .sneReg x y) rfl (decide_ne_iff_toNat (s.reg x) (s.reg y))

/-- Settles O36: the sum of a byte and a 12-bit address fits PC, so nothing is masked off. -/
theorem jumpWithOffsetAddsV0 : Obligations.JumpWithOffsetAddsV0 := by
  intro nnn s
  exact ⟨s.setPc (zextByte (s.reg 0x0#4) + zextAddr nnn), rfl, zextByte_add_zextAddr_toNat _ nnn, sameButPc_setPc s _⟩

end Sys2Proof.Machine
end

section
/-! SUPPORT. Register writes (41_alu.md): what an instruction that writes one register and advances PC does and leaves unchanged,
and the statements about the loads, ADD Vx,kk and the bitwise instructions. -/

namespace Sys2Proof.Machine

/-! ### PC + 2 -/

theorem advance_pc_toNat (s : State) : s.advance.pc.toNat = (s.pc.toNat + 2) % 65536 := by
  rw [State.advance_pc, BitVec.toNat_add]
  rfl

/-- PC is outside the frame of a register instruction, so advancing it keeps the frame. -/
theorem sameButRegs_advance {s t : State} (h : SameButRegs s t) : SameButRegs s t.advance := h

/-! ### One register written -/

theorem sameRegsBut_setReg (s : State) (x : RegNum) (b : Byte) : SameRegsBut [x] s (s.setReg x b) := by
  intro r hr
  rw [State.setReg_reg, if_neg (List.ne_of_not_mem_cons hr)]

theorem sameButRegs_setReg (s : State) (x : RegNum) (b : Byte) : SameButRegs s (s.setReg x b) :=
  have devices : SameDevices s (s.setReg x b) :=
    ⟨s.setReg_pixel x b, ⟨s.setReg_dt x b, s.setReg_st x b⟩, ⟨s.setReg_keys x b, s.setReg_lastKey x b⟩,
      ⟨s.setReg_running x b, s.setReg_cpuMode x b, s.setReg_straps x b⟩,
      ⟨s.setReg_draws x b, s.setReg_turns x b, s.setReg_turnsDrawn x b⟩⟩
  ⟨s.setReg_i x b, ⟨s.setReg_sp x b, s.setReg_stack x b⟩, s.setReg_readByte x b, devices⟩

/-- An instruction that writes the byte `c` to Vx and advances PC changes nothing else, VF included where x is not F (R14,
R100). -/
theorem exec_setReg {i : Instr} {s : State} {x : RegNum} {c : Byte} (he : exec i s = .next (s.setReg x c).advance) :
    ∃ t, exec i s = .next t ∧ t.reg x = c ∧ SameRegsBut [x] s t ∧ t.pc.toNat = (s.pc.toNat + 2) % 65536 ∧
      SameButRegs s t := by
  refine ⟨(s.setReg x c).advance, he, ?value, sameRegsBut_setReg s x c, advance_pc_toNat _, ?frame⟩
  case value => rw [State.advance_reg, State.setReg_reg, if_pos rfl]
  case frame => exact sameButRegs_advance (sameButRegs_setReg s x c)

/-- An instruction that writes Vx with the byte whose bits are `f` of the bits of Vx and Vy (R103, R104, R105). -/
theorem exec_bitwise {i : Instr} {s : State} {x y : RegNum} {c : Byte} (f : Bool → Bool → Bool)
    (he : exec i s = .next (s.setReg x c).advance)
    (hc : ∀ b, c.getLsbD b = f ((s.reg x).getLsbD b) ((s.reg y).getLsbD b)) :
    ∃ t, exec i s = .next t ∧ (∀ b < 8, (t.reg x).getLsbD b = f ((s.reg x).getLsbD b) ((s.reg y).getLsbD b)) ∧
      SameRegsBut [x] s t ∧ t.pc.toNat = (s.pc.toNat + 2) % 65536 ∧ SameButRegs s t := by
  obtain ⟨t, ht, hx, frame⟩ := exec_setReg he
  exact ⟨t, ht, fun b _ => hx ▸ hc b, frame⟩

/-! ### The statements -/

/-- Settles O37: both loads write one byte to Vx and advance PC. -/
theorem registerLoads : Obligations.RegisterLoads := by
  intro x y kk s
  exact ⟨exec_setReg (i := .ldByte x kk) rfl, exec_setReg (i := .ldReg x y) rfl⟩

/-- Settles O38: the byte written is the sum in 8 bits, whose value is the sum modulo 256. -/
theorem addImmediateWrapsWithoutFlag : Obligations.AddImmediateWrapsWithoutFlag := by
  intro x kk s
  obtain ⟨t, ht, hx, frame⟩ := exec_setReg (i := .addByte x kk) (s := s) rfl
  exact ⟨t, ht, by rw [hx, BitVec.toNat_add], frame⟩

/-- Settles O39: each of the three writes to Vx a byte combined bit by bit from Vx and Vy. -/
theorem logicCombinesBits : Obligations.LogicCombinesBits := by
  intro x y s
  refine ⟨?orReg, ?andReg, ?xorReg⟩
  case orReg => exact exec_bitwise or rfl fun _ => BitVec.getLsbD_or
  case andReg => exact exec_bitwise and rfl fun _ => BitVec.getLsbD_and
  case xorReg => exact exec_bitwise xor rfl fun _ => BitVec.getLsbD_xor

end Sys2Proof.Machine
end

section
/-! SUPPORT. Writes of the index register (42_index_memory.md): what an instruction that writes I and advances PC does and leaves
unchanged, and the statement about LD I and ADD I. -/

namespace Sys2Proof.Machine

/-! ### I written -/

theorem sameDevices_setI (s : State) (w : Word) : SameDevices s (s.setI w) :=
  ⟨s.setI_pixel w, ⟨s.setI_dt w, s.setI_st w⟩, ⟨s.setI_keys w, s.setI_lastKey w⟩,
    ⟨s.setI_running w, s.setI_cpuMode w, s.setI_straps w⟩,
    ⟨s.setI_draws w, s.setI_turns w, s.setI_turnsDrawn w⟩⟩

/-- PC is not among the devices, so advancing it keeps them. -/
theorem sameDevices_advance {s t : State} (h : SameDevices s t) : SameDevices s t.advance := h

/-- An instruction that writes the word `w` to I and advances PC changes nothing else; no register changes, so VF is as before
(R120, R121). -/
theorem exec_setI {i : Instr} {s : State} {w : Word} (he : exec i s = .next (s.setI w).advance) :
    ∃ t, exec i s = .next t ∧ t.i = w ∧ t.pc.toNat = (s.pc.toNat + 2) % 65536 ∧
      SameRegs s t ∧ SameStack s t ∧ SameMemory s t ∧ SameDevices s t :=
  ⟨(s.setI w).advance, he, s.setI_i w, advance_pc_toNat _, s.setI_reg w, ⟨s.setI_sp w, s.setI_stack w⟩,
    s.setI_readByte w, sameDevices_advance (sameDevices_setI s w)⟩

/-- A word plus a byte is their sum modulo 65536 (R121). -/
theorem add_zextByte_toNat (w : Word) (b : Byte) : (w + zextByte b).toNat = (w.toNat + b.toNat) % 65536 := by
  rw [BitVec.toNat_add, zextByte_toNat]

/-! ### The statement -/

/-- Settles O44: both instructions write I alone, one the widened address, the other the sum in 16 bits. -/
theorem indexLoadAndAdd : Obligations.IndexLoadAndAdd := by
  refine ⟨fun nnn s => ?ldI, fun x s => ?addI⟩
  case ldI =>
    obtain ⟨t, ht, hi, frame⟩ := exec_setI (i := .ldI nnn) (s := s) rfl
    exact ⟨t, ht, by rw [hi, zextAddr_toNat], frame⟩
  case addI =>
    obtain ⟨t, ht, hi, frame⟩ := exec_setI (i := .addI x) (s := s) rfl
    exact ⟨t, ht, by rw [hi, add_zextByte_toNat], frame⟩

end Sys2Proof.Machine
end

section
/-! SUPPORT. Fade levels are cosmetic (43_display.md, R138): what replacing the display by one with the same statuses does to each
operation, the compositor and decay among them, and the statement about two states that differ in fade levels alone. -/

namespace Sys2Proof.Machine

/-- Two displays with the same pixels on: they may differ in fade levels alone. -/
def SameStatus (d e : Display) : Prop := ∀ (r : Fin 32) (c : Fin 64), e[r][c].on = d[r][c].on

/-- Agreement on all but fade levels is a display replaced by one with the same statuses. -/
theorem agreeButFade_iff (s t : State) : AgreeButFade s t ↔ ∃ d, SameStatus s.pix d ∧ t = s.setPix d := by
  constructor
  · rintro ⟨ht, hon⟩
    exact ⟨t.pix, hon, ht⟩
  · rintro ⟨d, hd, rfl⟩
    exact ⟨rfl, hd⟩

theorem agreeButFade_setPix (s : State) {d e : Display} (h : SameStatus d e) : AgreeButFade (s.setPix d) (s.setPix e) :=
  ⟨rfl, h⟩

/-! ### The compositor and decay -/

@[simp] theorem togglePixel_on (m : Nat) (p : Pixel) : (togglePixel m p).on = !p.on := by
  unfold togglePixel
  cases p.on <;> rfl

@[simp] theorem decayPixel_on (p : Pixel) : (decayPixel p).on = p.on := by
  unfold decayPixel
  split <;> rfl

/-- Decay lowers levels and leaves statuses (R141). -/
theorem decay_sameStatus {d e : Display} (h : SameStatus d e) : SameStatus (decay d) (decay e) := by
  intro r c
  simp only [decay, Fin.getElem_fin, Vector.getElem_ofFn, decayPixel_on]
  exact h r c

section blit

variable {m : Nat} {T : Fin 32 → Fin 64 → Prop} {a a' b b' : Blit}

/-- Toggling the same pixels of two displays with the same statuses leaves them with the same statuses. -/
theorem Toggles.sameStatus (ha : Toggles m T a a') (hb : Toggles m T b b') (h : SameStatus a.pix b.pix) :
    SameStatus a'.pix b'.pix := by
  intro r c
  by_cases ht : T r c
  · rw [ha.hit r c ht, hb.hit r c ht, togglePixel_on, togglePixel_on, h r c]
  · rw [ha.miss r c ht, hb.miss r c ht, h r c]

/-- Whether a toggle collides depends on the statuses alone (R136). -/
theorem Toggles.collided_eq (ha : Toggles m T a a') (hb : Toggles m T b b') (h : SameStatus a.pix b.pix)
    (hc : b.collided = a.collided) : b'.collided = a'.collided := by
  rw [Bool.eq_iff_iff, ha.flag, hb.flag, hc]
  simp only [h _ _]

end blit

/-! ### The display replaced -/

@[simp] theorem setPix_setPix (s : State) (d e : Display) : (s.setPix d).setPix e = s.setPix e := rfl

theorem setPix_storeRegs (s : State) (d : Display) (rs : List Nat) :
    (s.setPix d).storeRegs rs = (s.storeRegs rs).setPix d :=
  List.foldl_hom (State.setPix · d) fun _ _ => rfl

theorem setPix_loadRegs (s : State) (d : Display) (rs : List Nat) :
    (s.setPix d).loadRegs rs = (s.loadRegs rs).setPix d :=
  List.foldl_hom (State.setPix · d) fun _ _ => rfl

theorem setPix_afterTurn (s : State) (d : Display) : (s.setPix d).afterTurn = s.afterTurn.setPix d := by
  unfold State.afterTurn
  rw [State.setPix_turns]
  cases s.turns <;> rfl

/-- The sprite and its place come from registers, I and memory, so both blits toggle the same pixels. -/
theorem drwBlit_setPix_toggles (s : State) (d : Display) (x y : RegNum) (n : RowCount) :
    Toggles s.straps.fadeMax (fun r c => spriteCovers s x y n r c = true) { pix := d, collided := false }
      ((s.setPix d).drwBlit x y n) :=
  drwBlit_toggles (s.setPix d) x y n

/-! ### The display replaced by one with the same statuses -/

section replaced

variable {s : State} {d : Display}

theorem drwBlit_setPix_sameStatus (hd : SameStatus s.pix d) (x y : RegNum) (n : RowCount) :
    SameStatus (s.drwBlit x y n).pix ((s.setPix d).drwBlit x y n).pix :=
  (drwBlit_toggles s x y n).sameStatus (drwBlit_setPix_toggles s d x y n) hd

theorem drwBlit_setPix_collided (hd : SameStatus s.pix d) (x y : RegNum) (n : RowCount) :
    ((s.setPix d).drwBlit x y n).collided = (s.drwBlit x y n).collided :=
  (drwBlit_toggles s x y n).collided_eq (drwBlit_setPix_toggles s d x y n) hd rfl

theorem execDrw_agreeButFade (hd : SameStatus s.pix d) (x y : RegNum) (n : RowCount) :
    OutcomesAgreeButFade (execDrw x y n s) (execDrw x y n (s.setPix d)) := by
  unfold execDrw
  rw [drwBlit_setPix_collided hd]
  exact ⟨rfl, drwBlit_setPix_sameStatus hd x y n⟩

/-- CLS blanks either display, DRW toggles the same pixels of both, and every other instruction commutes with the
replacement. -/
theorem exec_agreeButFade (hd : SameStatus s.pix d) (i : Instr) :
    OutcomesAgreeButFade (exec i s) (exec i (s.setPix d)) := by
  cases i
  case cls => exact ⟨rfl, fun _ _ => rfl⟩
  case drw x y n => exact execDrw_agreeButFade hd x y n
  case ldMemVx x =>
    simp only [exec, execLdMemVx]
    rw [setPix_storeRegs, storeRegs_regsUpTo_frame]
    exact ⟨rfl, hd⟩
  case ldVxMem x =>
    simp only [exec, execLdVxMem]
    rw [setPix_loadRegs, loadRegs_regsUpTo_frame]
    exact ⟨rfl, hd⟩
  all_goals exact ⟨rfl, hd⟩

theorem executeWord_agreeButFade (hd : SameStatus s.pix d) (w : Word) :
    OutcomesAgreeButFade (executeWord w s) (executeWord w (s.setPix d)) := by
  unfold executeWord
  cases decode w with
  | ok i => exact exec_agreeButFade hd i
  | error _ => exact ⟨rfl, hd⟩

theorem cpuStep_agreeButFade (hd : SameStatus s.pix d) : OutcomesAgreeButFade (cpuStep s) (cpuStep (s.setPix d)) := by
  unfold cpuStep
  rw [State.setPix_cpuMode, State.setPix_lastKey]
  cases s.cpuMode with
  | run => exact executeWord_agreeButFade hd s.fetchWord
  | waitKey =>
    cases s.lastKey <;> exact ⟨rfl, hd⟩

theorem frame_agreeButFade (hd : SameStatus s.pix d) : AgreeButFade s.frame (s.setPix d).frame := by
  rw [State.frame, State.frame, State.setPix_pix, setPix_setPix]
  exact agreeButFade_setPix s (decay_sameStatus hd)

/-- A turn of any agent: only the CPU and the frame event reach the display. -/
theorem runTurn_agreeButFade (hd : SameStatus s.pix d) (turn : Turn) :
    OutcomesAgreeButFade (runTurn turn s) (runTurn turn (s.setPix d)) := by
  cases turn with
  | cpu => exact cpuStep_agreeButFade hd
  | delayTick =>
    simp only [runTurn, State.delayTick_eq]
    exact ⟨rfl, hd⟩
  | soundTick =>
    simp only [runTurn, State.soundTick_eq]
    exact ⟨rfl, hd⟩
  | frame => exact frame_agreeButFade hd
  | press k => exact ⟨rfl, hd⟩
  | release k => exact ⟨rfl, hd⟩
  | stop => exact ⟨rfl, hd⟩

theorem step_agreeButFade (hd : SameStatus s.pix d) : OutcomesAgreeButFade (step s) (step (s.setPix d)) := by
  unfold step
  rw [State.setPix_running, setPix_afterTurn]
  split
  · exact runTurn_agreeButFade (by rwa [afterTurn_pix]) s.nextTurn
  · rfl

end replaced

/-! ### The statement -/

/-- Settles O26: the second state is the first with another display of the same statuses, and every step keeps them so. -/
theorem fadeIsCosmetic : Obligations.FadeIsCosmetic := by
  intro s t h
  obtain ⟨d, hd, rfl⟩ := (agreeButFade_iff s t).1 h
  exact step_agreeButFade hd

end Sys2Proof.Machine
end

section
/-! SUPPORT. The delay timer read (44_keys_timers.md): the statement about LD Vx,DT, one more write of a register. -/

namespace Sys2Proof.Machine

/-- Settles O59: the byte written to Vx is the delay timer, which is outside the register file and stays (R153). -/
theorem delayTimerIsRead : Obligations.DelayTimerIsRead := by
  intro x s
  exact exec_setReg (i := .ldVxDt x) rfl

end Sys2Proof.Machine
end

section
/-! SUPPORT. Steps and turns (10_state.md section 8, 40_flow.md section 1): a step as the turn of the agent that is next, and as the
instruction at PC. -/

namespace Sys2Proof.Machine

section

variable {s t : State} {i : Instr} {w : Word} {turn : Turn}

/-- A step that gives a next state is the turn of the agent that is next, in a machine that runs (R52, R176). -/
theorem step_eq_next_iff : step s = .next t ↔ s.running = true ∧ runTurn s.nextTurn s.afterTurn = .next t := by
  unfold step
  cases s.running <;> simp

theorem step_of_nextTurn (hr : s.running = true) (hn : s.nextTurn = turn) : step s = runTurn turn s.afterTurn := by
  rw [step, if_pos hr, hn]

theorem cpuStep_of_run (hm : s.cpuMode = .run) : cpuStep s = executeWord s.fetchWord s := by
  rw [cpuStep, hm]

theorem executeWord_of_ok (h : decode w = .ok i) : executeWord w s = exec i s := by
  rw [executeWord, h]

theorem executeWord_of_error {e : Unrecognised} (h : decode w = .error e) : executeWord w s = .next s.advance := by
  rw [executeWord, h, execUnrecognised]

/-- A turn of the CPU in mode Run executes the word at PC (R80). -/
theorem step_of_cpu_run (hr : s.running = true) (hc : s.nextTurn = .cpu) (hm : s.cpuMode = .run) :
    step s = executeWord s.fetchWord s.afterTurn := by
  rw [step_of_nextTurn hr hc, runTurn, cpuStep_of_run (by rwa [afterTurn_cpuMode]), afterTurn_fetchWord]

theorem executing_eq_some_iff :
    executing s = some i ↔
      (s.running = true ∧ s.nextTurn = .cpu ∧ s.cpuMode = .run) ∧ decode s.fetchWord = .ok i := by
  unfold executing
  split
  · next hc => cases decode s.fetchWord <;> simp [hc, Except.toOption]
  · next hc => simp [hc]

/-- A step that executes an instruction is `exec` of it, with the turn taken off. -/
theorem step_of_executing (h : executing s = some i) : step s = exec i s.afterTurn := by
  obtain ⟨⟨hr, hc, hm⟩, hd⟩ := executing_eq_some_iff.1 h
  rw [step_of_cpu_run hr hc hm, executeWord_of_ok hd]

end

end Sys2Proof.Machine
end

section
/-! SUPPORT. The invariant of the machine (10_state.md): what an instruction and an event do to canonical memory and to the pixels'
fade levels, and the statements that reset meets the invariant and every step keeps it. -/

namespace Sys2Proof.Machine

/-! ### One pixel -/

/-- What the display invariants say of one pixel under a maximal fade level `m` (R20 b, c). -/
def PixelInv (m : Nat) (p : Pixel) : Prop := (p.on = true → p.fade = 0) ∧ p.fade ≤ m

theorem displayInv_iff (s : State) : DisplayInv s ↔ ∀ r c, PixelInv s.straps.fadeMax (s.pixel r c) := Iff.rfl

theorem pixelInv_blankPixel (m : Nat) : PixelInv m blankPixel := ⟨fun _ => rfl, Nat.zero_le m⟩

/-- A pixel that goes off gets the maximal level, one that goes on gets 0 (R137, D9). -/
theorem pixelInv_togglePixel (m : Nat) (p : Pixel) : PixelInv m (togglePixel m p) := by
  unfold togglePixel
  split
  · exact ⟨fun h => absurd h Bool.false_ne_true, le_refl m⟩
  · exact ⟨fun _ => rfl, Nat.zero_le m⟩

/-- Decay leaves on pixels and lowers the levels of off pixels (R141). -/
theorem pixelInv_decayPixel {m : Nat} {p : Pixel} (h : PixelInv m p) : PixelInv m (decayPixel p) := by
  unfold decayPixel
  split
  · exact h
  · next hoff => exact ⟨fun hon => absurd hon hoff, (Nat.sub_le p.fade 1).trans h.2⟩

theorem pixelInv_drwBlit {s : State} (h : DisplayInv s) (x y : RegNum) (n : RowCount) (r : Fin 32) (c : Fin 64) :
    PixelInv s.straps.fadeMax (s.drwBlit x y n).pix[r][c] := by
  have toggles := drwBlit_toggles s x y n
  by_cases hc : spriteCovers s x y n r c = true
  · exact toggles.hit r c hc ▸ pixelInv_togglePixel _ _
  · exact toggles.miss r c hc ▸ h r c

/-! ### The whole state -/

/-- The invariant speaks of memory, the display and the straps alone. -/
theorem inv_of_same {s t : State} (h : Inv s) (hm : t.mem = s.mem) (hp : t.pix = s.pix) (hs : t.straps = s.straps) :
    Inv t := by
  obtain ⟨hwf, hd⟩ := h
  refine ⟨hm ▸ hwf, fun r c => ?_⟩
  rw [State.pixel, hp, hs]
  exact hd r c

theorem inv_afterTurn {s : State} (h : Inv s) : Inv s.afterTurn :=
  inv_of_same h (afterTurn_mem s) (afterTurn_pix s) (afterTurn_straps s)

section exec

variable {i : Instr} {s t : State}

/-- Memory is written by LD B,Vx and LD [I],Vx alone, byte by byte, and each write keeps the canonical form. -/
theorem exec_wf (h : exec i s = .next t) (hwf : Memory.wf s.mem = true) : Memory.wf t.mem = true := by
  obtain hm | ⟨x, rfl | rfl⟩ := (exec_frame h).mem
  · rwa [hm]
  · cases h
    exact writeByte_wf (writeByte_wf (writeByte_wf hwf _ _) _ _) _ _
  · cases h
    exact storeRegs_wf hwf _

/-- The display is written by CLS and DRW alone. -/
theorem exec_displayInv (h : exec i s = .next t) (hd : DisplayInv s) : DisplayInv t := by
  rw [displayInv_iff, (exec_frame h).straps]
  intro r c
  obtain hp | rfl | ⟨x, y, n, rfl⟩ := (exec_frame h).pix
  · rw [State.pixel, hp]
    exact hd r c
  · cases h
    exact State.setPix_blank_pixel s r c ▸ pixelInv_blankPixel _
  · cases h
    exact pixelInv_drwBlit hd x y n r c

theorem exec_inv (h : exec i s = .next t) (hs : Inv s) : Inv t :=
  ⟨exec_wf h hs.1, exec_displayInv h hs.2⟩

end exec

theorem inv_frame {s : State} (h : Inv s) : Inv s.frame := by
  obtain ⟨hwf, hd⟩ := h
  refine ⟨(State.frame_mem s).symm ▸ hwf, fun r c => ?_⟩
  rw [State.frame_pixel, State.frame_straps]
  exact pixelInv_decayPixel (hd r c)

theorem cpuStep_inv {s t : State} (h : cpuStep s = .next t) (hs : Inv s) : Inv t := by
  obtain ⟨i, -, -, e⟩ | ⟨_, -, -, e⟩ | ⟨k, -, -, e⟩ | ⟨-, -, e⟩ := cpuStep_cases s <;> rw [e] at h
  · exact exec_inv h hs
  all_goals
    cases h
    exact inv_of_same hs rfl rfl rfl

/-- Every agent keeps the invariant: only the CPU reaches memory, and only the CPU and the frame event reach the display. -/
theorem runTurn_inv {turn : Turn} {s t : State} (h : runTurn turn s = .next t) (hs : Inv s) : Inv t := by
  cases turn with
  | cpu => exact cpuStep_inv h hs
  | delayTick =>
    cases h
    exact inv_of_same hs (State.delayTick_mem s) (State.delayTick_pix s) (State.delayTick_straps s)
  | soundTick =>
    cases h
    exact inv_of_same hs (State.soundTick_mem s) (State.soundTick_pix s) (State.soundTick_straps s)
  | frame =>
    cases h
    exact inv_frame hs
  | press k | release k | stop =>
    cases h
    exact inv_of_same hs rfl rfl rfl

/-! ### The statements -/

/-- Settles O24: the CPU writes memory and pixels through operations that keep their form, and a frame only lowers the levels of
off pixels. -/
theorem everyStepKeepsTheInvariant : Obligations.EveryStepKeepsTheInvariant := by
  intro s t hs h
  exact runTurn_inv (step_eq_next_iff.1 h).2 (inv_afterTurn hs)

/-- Settles O25: memory lists nothing and every pixel is blank. -/
theorem resetMeetsTheInvariant : Obligations.ResetMeetsTheInvariant :=
  ⟨rfl, fun r c => State.reset_pixel r c ▸ pixelInv_blankPixel _⟩

end Sys2Proof.Machine
end

section
/-! SUPPORT. The decoder and the encoder (30_encoding.md): the words of each format from their fields, the decoder's families, a
word under a row's mask, and the statements about encoding and decoding. -/

namespace Sys2Proof

/-! ### A word is made of its fields -/

section fields

variable {w : Word} {op : BitVec 4}

theorem wordA_fields (h : fieldOp w = op) : wordA op (fieldNNN w) = w := by
  subst h
  rw [wordA, fieldOp, fieldNNN, BitVec.extractLsb'_append_extractLsb'_eq_extractLsb' (by rfl), slice_all]

theorem wordXK_fields (h : fieldOp w = op) : wordXK op (fieldX w) (fieldKK w) = w := by
  subst h
  rw [wordXK, fieldOp, fieldX, fieldKK, BitVec.extractLsb'_append_extractLsb'_eq_extractLsb' (by rfl),
    BitVec.extractLsb'_append_extractLsb'_eq_extractLsb' (by rfl), slice_all]

theorem wordXYN_fields (h : fieldOp w = op) : wordXYN op (fieldX w) (fieldY w) (fieldN w) = w := by
  subst h
  rw [wordXYN, fieldOp, fieldX, fieldY, fieldN, BitVec.extractLsb'_append_extractLsb'_eq_extractLsb' (by rfl),
    BitVec.extractLsb'_append_extractLsb'_eq_extractLsb' (by rfl),
    BitVec.extractLsb'_append_extractLsb'_eq_extractLsb' (by rfl), slice_all]

/-- A word of format `XS`, its sub-opcode in `kk` (R62). -/
theorem wordXS_fields {kk : Byte} (h : fieldOp w = op) (hk : fieldKK w = kk) : wordXK op (fieldX w) kk = w := by
  subst hk
  exact wordXK_fields h

/-- A word of format `XY`, its sub-opcode in `n` (R62). -/
theorem wordXY_fields {n : BitVec 4} (h : fieldOp w = op) (hn : fieldN w = n) :
    wordXYN op (fieldX w) (fieldY w) n = w := by
  subst hn
  exact wordXYN_fields h

end fields

/-! ### Decoding and encoding -/

/-- Each format carries its opcode and its operands in the fields that the decoder reads. -/
theorem decode_encode (i : Instr) : decode (encode i) = .ok i := by
  cases i
  case cls | ret => rfl
  case jp | call | ldI | jpV0 => simp [encode, decode]
  case seByte | sneByte | ldByte | addByte | rnd => simp [encode, decode]
  case seReg | sneReg => simp [encode, decode, decodeCompare]
  case ldReg | orReg | andReg | xorReg | addReg | subReg | shr | subn | shl => simp [encode, decode, decodeFamily8]
  case drw => simp [encode, decode]
  case skp | sknp => simp [encode, decode, decodeFamilyE]
  case ldVxDt | ldVxK | ldDtVx | ldStVx | addI | ldF | ldB | ldMemVx | ldVxMem => simp [encode, decode, decodeFamilyF]

theorem encode_of_decodeFamily0 {w : Word} {i : Instr} (h : decodeFamily0 w = .ok i) : encode i = w := by
  unfold decodeFamily0 at h
  split at h
  · next hw => cases h; exact hw.symm
  · split at h
    · next hw => cases h; exact hw.symm
    · cases h

theorem encode_of_decodeCompare {w : Word} {i : Instr} {op : BitVec 4} {mk : RegNum → RegNum → Instr} {e : Unrecognised}
    (hmk : ∀ x y, encode (mk x y) = wordXYN op x y 0x0#4) (hop : fieldOp w = op) (h : decodeCompare w mk e = .ok i) :
    encode i = w := by
  unfold decodeCompare at h
  split at h
  · next hn => cases h; rw [hmk, wordXY_fields hop hn]
  · cases h

theorem encode_of_decodeFamily8 {w : Word} {i : Instr} (hop : fieldOp w = 0x8#4) (h : decodeFamily8 w = .ok i) :
    encode i = w := by
  unfold decodeFamily8 at h
  split at h
  case h_10 => cases h
  all_goals
    next hn =>
      cases h
      exact wordXY_fields hop (BitVec.eq_of_toNat_eq hn)

theorem encode_of_decodeFamilyE {w : Word} {i : Instr} (hop : fieldOp w = 0xE#4) (h : decodeFamilyE w = .ok i) :
    encode i = w := by
  unfold decodeFamilyE at h
  repeat' split at h
  all_goals cases h
  all_goals exact wordXS_fields hop ‹_›

theorem encode_of_decodeFamilyF {w : Word} {i : Instr} (hop : fieldOp w = 0xF#4) (h : decodeFamilyF w = .ok i) :
    encode i = w := by
  unfold decodeFamilyF at h
  repeat' split at h
  all_goals cases h
  all_goals exact wordXS_fields hop ‹_›

/-- In every family the operands are read back from the word's own fields, and the fixed fields are compared. -/
theorem encode_of_decode {w : Word} {i : Instr} (h : decode w = .ok i) : encode i = w := by
  unfold decode at h
  split at h
  case h_1 => exact encode_of_decodeFamily0 h
  case h_6 hop => exact encode_of_decodeCompare (op := 0x5#4) (fun _ _ => rfl) (BitVec.eq_of_toNat_eq hop) h
  case h_10 hop => exact encode_of_decodeCompare (op := 0x9#4) (fun _ _ => rfl) (BitVec.eq_of_toNat_eq hop) h
  case h_9 hop => exact encode_of_decodeFamily8 (BitVec.eq_of_toNat_eq hop) h
  case h_15 hop => exact encode_of_decodeFamilyE (BitVec.eq_of_toNat_eq hop) h
  case h_16 =>
    have hop : fieldOp w = 0xF#4 := by
      have := (fieldOp w).isLt
      simp only [imp_false, ← BitVec.toNat_inj, BitVec.toNat_ofNat] at *
      omega
    exact encode_of_decodeFamilyF hop h
  all_goals cases h
  case h_2 hop | h_3 hop | h_11 hop | h_12 hop => exact wordA_fields (BitVec.eq_of_toNat_eq hop)
  case h_4 hop | h_5 hop | h_7 hop | h_8 hop | h_13 hop => exact wordXK_fields (BitVec.eq_of_toNat_eq hop)
  case h_14 hop => exact wordXYN_fields (BitVec.eq_of_toNat_eq hop)

/-- A word decodes to an instruction exactly when it is the instruction's word. -/
theorem decode_eq_ok_iff {w : Word} {i : Instr} : decode w = .ok i ↔ encode i = w :=
  ⟨encode_of_decode, fun h => h ▸ decode_encode i⟩

/-! ### Unrecognised words -/

/-- The opcode nibble of a family with unrecognised words (R68). -/
def Unrecognised.op : Unrecognised → BitVec 4
  | .family0 => 0x0#4
  | .family5 => 0x5#4
  | .family8 => 0x8#4
  | .family9 => 0x9#4
  | .familyE => 0xE#4
  | .familyF => 0xF#4

theorem decodeFamily0_eq_error_iff {w : Word} {e : Unrecognised} :
    decodeFamily0 w = .error e ↔ e = .family0 ∧ w ≠ 0x00E0#16 ∧ w ≠ 0x00EE#16 := by
  unfold decodeFamily0
  split_ifs <;> simp_all [eq_comm]

theorem decodeCompare_eq_error_iff {w : Word} {mk : RegNum → RegNum → Instr} {e e' : Unrecognised} :
    decodeCompare w mk e' = .error e ↔ e = e' ∧ fieldN w ≠ 0x0#4 := by
  unfold decodeCompare
  split_ifs <;> simp_all [eq_comm]

theorem decodeFamily8_eq_error_iff {w : Word} {e : Unrecognised} :
    decodeFamily8 w = .error e ↔
      e = .family8 ∧ fieldN w ∈ [0x8#4, 0x9#4, 0xA#4, 0xB#4, 0xC#4, 0xD#4, 0xF#4] := by
  have hlt := (fieldN w).isLt
  unfold decodeFamily8
  split
  case h_10 =>
    have hmem : fieldN w ∈ [0x8#4, 0x9#4, 0xA#4, 0xB#4, 0xC#4, 0xD#4, 0xF#4] := by
      simp only [List.mem_cons, List.not_mem_nil, or_false, imp_false, ← BitVec.toNat_inj, BitVec.toNat_ofNat] at *
      omega
    simp [hmem, eq_comm]
  all_goals
    next hn => simp [← BitVec.toNat_inj, hn]

theorem decodeFamilyE_eq_error_iff {w : Word} {e : Unrecognised} :
    decodeFamilyE w = .error e ↔ e = .familyE ∧ fieldKK w ∉ [0x9E#8, 0xA1#8] := by
  unfold decodeFamilyE
  split_ifs <;> simp_all [eq_comm]

theorem decodeFamilyF_eq_error_iff {w : Word} {e : Unrecognised} :
    decodeFamilyF w = .error e ↔
      e = .familyF ∧ fieldKK w ∉ [0x07#8, 0x0A#8, 0x15#8, 0x18#8, 0x1E#8, 0x29#8, 0x33#8, 0x55#8, 0x65#8] := by
  unfold decodeFamilyF
  split_ifs <;> simp_all [eq_comm]

/-- Only the words of a family are unrecognised as its words. -/
theorem fieldOp_of_decode_eq_error {w : Word} {e : Unrecognised} (h : decode w = .error e) : fieldOp w = e.op := by
  unfold decode at h
  split at h
  case h_1 hop =>
    obtain ⟨rfl, -⟩ := decodeFamily0_eq_error_iff.1 h
    exact BitVec.eq_of_toNat_eq hop
  case h_6 hop | h_10 hop =>
    obtain ⟨rfl, -⟩ := decodeCompare_eq_error_iff.1 h
    exact BitVec.eq_of_toNat_eq hop
  case h_9 hop =>
    obtain ⟨rfl, -⟩ := decodeFamily8_eq_error_iff.1 h
    exact BitVec.eq_of_toNat_eq hop
  case h_15 hop =>
    obtain ⟨rfl, -⟩ := decodeFamilyE_eq_error_iff.1 h
    exact BitVec.eq_of_toNat_eq hop
  case h_16 =>
    obtain ⟨rfl, -⟩ := decodeFamilyF_eq_error_iff.1 h
    have := (fieldOp w).isLt
    simp only [imp_false, Unrecognised.op, ← BitVec.toNat_inj, BitVec.toNat_ofNat] at *
    omega
  all_goals cases h

/-- A word is unrecognised in a family exactly when its opcode is the family's and the family's own decoder, which has no other
error, gives it. -/
theorem decode_eq_error_iff {w : Word} {e : Unrecognised} {d : Except Unrecognised Instr} {p : Prop}
    (hd : fieldOp w = e.op → decode w = d) (hp : ∀ e', d = .error e' ↔ e' = e ∧ p) :
    decode w = .error e ↔ fieldOp w = e.op ∧ p := by
  constructor
  · intro h
    have hop := fieldOp_of_decode_eq_error h
    exact ⟨hop, ((hp e).1 ((hd hop).symm.trans h)).2⟩
  · rintro ⟨hop, h⟩
    exact (hd hop).trans ((hp e).2 ⟨rfl, h⟩)

/-! ### Words under a mask -/

section masks

variable {w m v : Word}

theorem fieldOp_of_masked (h : w &&& m = v) (hm : fieldOp m = BitVec.allOnes 4) : fieldOp w = fieldOp v := by
  rw [← h, fieldOp, fieldOp, BitVec.extractLsb'_and, ← fieldOp, ← fieldOp, hm, BitVec.and_allOnes]

theorem fieldN_of_masked (h : w &&& m = v) (hm : fieldN m = BitVec.allOnes 4) : fieldN w = fieldN v := by
  rw [← h, fieldN, fieldN, BitVec.extractLsb'_and, ← fieldN, ← fieldN, hm, BitVec.and_allOnes]

theorem fieldKK_of_masked (h : w &&& m = v) (hm : fieldKK m = BitVec.allOnes 8) : fieldKK w = fieldKK v := by
  rw [← h, fieldKK, fieldKK, BitVec.extractLsb'_and, ← fieldKK, ← fieldKK, hm, BitVec.and_allOnes]

end masks

theorem matchesRow_iff {w : Word} {row : Word × Word} : matchesRow w row = true ↔ w &&& row.2 = row.1 :=
  decide_eq_true_iff

open Laws.EncodesItsRow in
/-- Every instruction's word matches its own row: the laws of the per-instruction family, together. -/
theorem matchesRow_encode (i : Instr) : matchesRow (encode i) i.row = true := by
  rw [matchesRow_iff]
  cases i
  case cls => exact cls.1
  case ret => exact ret.1
  case jp | call | ldI | jpV0 => exact wordA_masked _ _
  case seByte | sneByte | ldByte | addByte | rnd => exact wordXK_masked _ _ _
  case drw => exact wordXYN_masked _ _ _ _
  case skp | sknp => exact wordXS_masked _ _ _
  case ldVxDt | ldVxK | ldDtVx | ldStVx | addI | ldF | ldB | ldMemVx | ldVxMem => exact wordXS_masked _ _ _
  all_goals exact wordXY_masked _ _ _ _

/-- The instruction of the same row with the operands that a word carries in its fields (R61). -/
def Instr.withOperandsOf (w : Word) : Instr → Instr
  | .cls => .cls
  | .ret => .ret
  | .jp _ => .jp (fieldNNN w)
  | .call _ => .call (fieldNNN w)
  | .seByte _ _ => .seByte (fieldX w) (fieldKK w)
  | .sneByte _ _ => .sneByte (fieldX w) (fieldKK w)
  | .seReg _ _ => .seReg (fieldX w) (fieldY w)
  | .ldByte _ _ => .ldByte (fieldX w) (fieldKK w)
  | .addByte _ _ => .addByte (fieldX w) (fieldKK w)
  | .ldReg _ _ => .ldReg (fieldX w) (fieldY w)
  | .orReg _ _ => .orReg (fieldX w) (fieldY w)
  | .andReg _ _ => .andReg (fieldX w) (fieldY w)
  | .xorReg _ _ => .xorReg (fieldX w) (fieldY w)
  | .addReg _ _ => .addReg (fieldX w) (fieldY w)
  | .subReg _ _ => .subReg (fieldX w) (fieldY w)
  | .shr _ _ => .shr (fieldX w) (fieldY w)
  | .subn _ _ => .subn (fieldX w) (fieldY w)
  | .shl _ _ => .shl (fieldX w) (fieldY w)
  | .sneReg _ _ => .sneReg (fieldX w) (fieldY w)
  | .ldI _ => .ldI (fieldNNN w)
  | .jpV0 _ => .jpV0 (fieldNNN w)
  | .rnd _ _ => .rnd (fieldX w) (fieldKK w)
  | .drw _ _ _ => .drw (fieldX w) (fieldY w) (fieldN w)
  | .skp _ => .skp (fieldX w)
  | .sknp _ => .sknp (fieldX w)
  | .ldVxDt _ => .ldVxDt (fieldX w)
  | .ldVxK _ => .ldVxK (fieldX w)
  | .ldDtVx _ => .ldDtVx (fieldX w)
  | .ldStVx _ => .ldStVx (fieldX w)
  | .addI _ => .addI (fieldX w)
  | .ldF _ => .ldF (fieldX w)
  | .ldB _ => .ldB (fieldX w)
  | .ldMemVx _ => .ldMemVx (fieldX w)
  | .ldVxMem _ => .ldVxMem (fieldX w)

theorem withOperandsOf_row (w : Word) (i : Instr) : (i.withOperandsOf w).row = i.row := by
  cases i <;> rfl

/-- A word that matches a row is the word of the row's instruction with the operands that the word carries. -/
theorem encode_withOperandsOf {w : Word} {i : Instr} (h : w &&& i.row.2 = i.row.1) : encode (i.withOperandsOf w) = w := by
  cases i <;> dsimp only [Instr.row] at h
  case cls | ret => exact h.symm.trans BitVec.and_allOnes
  case jp | call | ldI | jpV0 => exact wordA_fields (fieldOp_of_masked h rfl)
  case seByte | sneByte | ldByte | addByte | rnd => exact wordXK_fields (fieldOp_of_masked h rfl)
  case drw => exact wordXYN_fields (fieldOp_of_masked h rfl)
  case skp | sknp => exact wordXS_fields (fieldOp_of_masked h rfl) (fieldKK_of_masked h rfl)
  case ldVxDt | ldVxK | ldDtVx | ldStVx | addI | ldF | ldB | ldMemVx | ldVxMem =>
    exact wordXS_fields (fieldOp_of_masked h rfl) (fieldKK_of_masked h rfl)
  all_goals exact wordXY_fields (fieldOp_of_masked h rfl) (fieldN_of_masked h rfl)

/-- Every row of the table is the row of an instruction. -/
theorem exists_row_eq_of_mem : ∀ row ∈ opcodeRows, ∃ i : Instr, i.row = row := by
  simp only [opcodeRows, List.forall_mem_cons, List.not_mem_nil, false_imp_iff, implies_true, and_true]
  and_intros <;> exact ⟨_, rfl⟩

/-! ### Rows that do not overlap -/

/-- Two rows that differ in a bit that both compare. -/
def RowsDiffer (row row' : Word × Word) : Prop := row.1 &&& row'.2 ≠ row'.1 &&& row.2

theorem opcodeRows_differ : opcodeRows.Pairwise RowsDiffer := by
  unfold RowsDiffer
  decide

theorem not_matchesRow_of_rowsDiffer {w : Word} {row row' : Word × Word} (hd : RowsDiffer row row')
    (h : matchesRow w row = true) : ¬ matchesRow w row' = true := by
  intro h'
  rw [matchesRow_iff] at h h'
  apply hd
  rw [← h, ← h', BitVec.and_assoc, BitVec.and_assoc, BitVec.and_comm row.2]

/-- Of rows that differ in pairs a word matches at most one. -/
theorem filter_matchesRow_length {rows : List (Word × Word)} (h : rows.Pairwise RowsDiffer) (w : Word) :
    (rows.filter (matchesRow w)).length ≤ 1 := by
  match hl : rows.filter (matchesRow w) with
  | [] => exact Nat.zero_le 1
  | [_] => exact le_refl 1
  | a :: b :: rest =>
    have hab : RowsDiffer a b := by
      have := h.filter (matchesRow w)
      rw [hl] at this
      exact List.rel_of_pairwise_cons this List.mem_cons_self
    have matched : ∀ row ∈ rows.filter (matchesRow w), matchesRow w row = true := fun _ hm => (List.mem_filter.1 hm).2
    rw [hl] at matched
    exact absurd (matched b (by simp)) (not_matchesRow_of_rowsDiffer hab (matched a (by simp)))

/-! ### The statements -/

/-- Settles O1: every format's fields can be read back. -/
theorem decodeOfEncodeIsIdentity : Obligations.DecodeOfEncodeIsIdentity := by
  intro i _
  exact decode_encode i

/-- Settles O2: the fixed fields and the operands make up the whole word. -/
theorem encodeOfDecodeIsIdentity : Obligations.EncodeOfDecodeIsIdentity := by
  intro w i h
  exact encode_of_decode h

/-- Settles O3: an instruction's word matches its row, and a word that matches a row is an instruction's word. -/
theorem decoderFollowsTheOpcodeTable : Obligations.DecoderFollowsTheOpcodeTable := by
  refine fun w => ⟨fun i h => ?encoded, fun row hrow h => ?matched⟩
  case encoded => exact decode_eq_ok_iff.1 h ▸ matchesRow_encode i
  case matched =>
    obtain ⟨i, rfl⟩ := exists_row_eq_of_mem row hrow
    exact ⟨i.withOperandsOf w, decode_eq_ok_iff.2 (encode_withOperandsOf (matchesRow_iff.1 h)), withOperandsOf_row w i⟩

/-- Settles O4: any two of the 34 rows differ in a bit that both compare. -/
theorem opcodeRowsDoNotOverlap : Obligations.OpcodeRowsDoNotOverlap :=
  ⟨rfl, filter_matchesRow_length opcodeRows_differ⟩

/-- Settles O5: a word's opcode selects one family's decoder, and each of these says which of its words it does not know. -/
theorem unrecognisedWordsAreThoseOfTheTable : Obligations.UnrecognisedWordsAreThoseOfTheTable := by
  intro w
  refine ⟨decode_eq_error_iff ?_ fun _ => decodeFamily0_eq_error_iff,
    decode_eq_error_iff ?_ fun _ => decodeCompare_eq_error_iff (mk := .seReg),
    decode_eq_error_iff ?_ fun _ => decodeFamily8_eq_error_iff,
    decode_eq_error_iff ?_ fun _ => decodeCompare_eq_error_iff (mk := .sneReg),
    decode_eq_error_iff ?_ fun _ => decodeFamilyE_eq_error_iff,
    decode_eq_error_iff ?_ fun _ => decodeFamilyF_eq_error_iff⟩
  all_goals
    intro hop
    simp [decode, hop, Unrecognised.op]

/-- Settles O6: ten words, decoded. -/
theorem wordsOfTheSpecDecode : Obligations.WordsOfTheSpecDecode :=
  ⟨rfl, rfl, rfl, rfl, rfl, rfl, rfl, rfl, rfl, rfl⟩

end Sys2Proof
end

section
/-! SUPPORT. The four agents (10_state.md section 8, 60_exceptions.md): what a turn of the CPU and a turn of an engine or of the
environment leave unchanged, and the statements about whole steps. -/

namespace Sys2Proof.Machine

/-! ### What a turn reads through the model's own fields -/

@[simp] theorem afterTurn_reg (s : State) (x : RegNum) : s.afterTurn.reg x = s.reg x := by rw [afterTurn_eq]; rfl

@[simp] theorem afterTurn_pixel (s : State) (r : Fin 32) (c : Fin 64) : s.afterTurn.pixel r c = s.pixel r c := by
  rw [afterTurn_eq]; rfl

theorem nextTurn_of_cons {s : State} {turn : Turn} {rest : List Turn} (h : s.turns = turn :: rest) :
    s.nextTurn = turn := by
  rw [State.nextTurn, h]

theorem afterTurn_of_cons {s : State} {turn : Turn} {rest : List Turn} (h : s.turns = turn :: rest) :
    s.afterTurn = { s with turns := rest } := by
  rw [State.afterTurn, h]

/-! ### A turn of the CPU -/

/-- What a turn of the CPU leaves unchanged, and which instructions alone change the rest (R30, R46, R48). -/
structure CpuFrame (s t : State) : Prop where
  keys : t.keys = s.keys
  running : t.running = s.running
  straps : t.straps = s.straps
  sp : t.sp = s.sp ∨ executing s = some .ret ∨ ∃ a, executing s = some (.call a)
  stack : t.stack = s.stack ∨ executing s = some .ret ∨ ∃ a, executing s = some (.call a)
  pix : t.pix = s.pix ∨ executing s = some .cls ∨ ∃ x y n, executing s = some (.drw x y n)
  dt : t.dt = s.dt ∨ ∃ x, executing s = some (.ldDtVx x)
  st : t.st = s.st ∨ ∃ x, executing s = some (.ldStVx x)
  lastKey : t.lastKey = s.lastKey ∨ ∃ x, executing s = some (.ldVxK x)
  mem : t.mem = s.mem ∨ ∃ x, executing s = some (.ldB x) ∨ executing s = some (.ldMemVx x)

theorem cpuFrame_of_executing {s t : State} {i : Instr} (hi : executing s = some i) (h : exec i s.afterTurn = .next t) :
    CpuFrame s t := by
  have f := exec_frame h
  rw [afterTurn_eq] at f
  refine ⟨f.keys, f.running, f.straps, ?_, ?_, ?_, ?_, ?_, ?_, ?_⟩ <;> simp only [hi, Option.some.injEq]
  exacts [f.sp, f.stack, f.pix, f.dt, f.st, f.lastKey, f.mem]

/-- An instruction changes what is its own; the no-operation, a key-wait completion and a turn that passes change registers, PC
and the mode at most. -/
theorem cpuTurn_frame {s t : State} (h : step s = .next t) (hc : s.nextTurn = .cpu) : CpuFrame s t := by
  obtain ⟨i, hi, he⟩ | ⟨-, -, rfl⟩ | ⟨k, -, -, rfl⟩ | ⟨-, -, rfl⟩ := cpuTurn_cases h hc
  · exact cpuFrame_of_executing hi he
  all_goals constructor <;> simp [State.completeKeyWait]

/-! ### A turn of an engine or of the environment -/

/-- What a turn of an agent other than the CPU leaves unchanged, and which turns alone change the rest (R30). -/
structure EventFrame (turn : Turn) (s t : State) : Prop where
  v : t.v = s.v
  i : t.i = s.i
  pc : t.pc = s.pc
  sp : t.sp = s.sp
  stack : t.stack = s.stack
  mem : t.mem = s.mem
  cpuMode : t.cpuMode = s.cpuMode
  straps : t.straps = s.straps
  status : ∀ r c, (t.pixel r c).on = (s.pixel r c).on
  dt : t.dt = s.dt ∨ turn = .delayTick
  st : t.st = s.st ∨ turn = .soundTick
  running : t.running = s.running ∨ turn = .stop
  pix : t.pix = s.pix ∨ turn = .frame
  keys : t.keys = s.keys ∨ ∃ k, turn = .press k ∨ turn = .release k
  lastKey : t.lastKey = s.lastKey ∨ ∃ k, turn = .press k

theorem runTurn_frame {turn : Turn} {s t : State} (hc : turn ≠ .cpu) (h : runTurn turn s = .next t) :
    EventFrame turn s t := by
  cases turn with
  | cpu => exact absurd rfl hc
  | frame => cases h; constructor <;> simp
  | delayTick | soundTick | press k | release k | stop => cases h; constructor <;> simp [State.pixel]

theorem eventTurn_frame {s t : State} (h : step s = .next t) (hc : s.nextTurn ≠ .cpu) : EventFrame s.nextTurn s t := by
  have f := runTurn_frame hc (step_eq_next_iff.1 h).2
  rw [afterTurn_eq] at f
  exact { f with }

/-! ### Timers, keys and the tone -/

theorem byte_ne_zero_iff (b : Byte) : b ≠ 0x00#8 ↔ b.toNat ≠ 0 := by
  rw [ne_eq, ← BitVec.toNat_inj]
  rfl

/-- A count that goes down by one and stays at 0 (R160, R161). -/
theorem countDown_toNat (b : Byte) : (if b = 0x00#8 then 0x00#8 else b - 1#8).toNat = b.toNat - 1 := by
  have := b.isLt
  split
  · next h => rw [h]; rfl
  · next h =>
    have := (byte_ne_zero_iff b).1 h
    rw [BitVec.toNat_sub, BitVec.toNat_ofNat]
    omega

theorem delayRunning_iff (s : State) : s.delayRunning = true ↔ s.dt.toNat ≠ 0 := by
  rw [State.delayRunning, decide_eq_true_iff, byte_ne_zero_iff]

theorem soundRunning_iff (s : State) : s.soundRunning = true ↔ s.st.toNat ≠ 0 := by
  rw [State.soundRunning, decide_eq_true_iff, byte_ne_zero_iff]

theorem tone_eq_true_iff (s : State) : s.tone = true ↔ s.running = true ∧ s.st ≠ 0x00#8 := by
  rw [State.tone, Bool.and_eq_true, State.soundRunning, decide_eq_true_iff]

theorem tone_eq_false_iff (s : State) : s.tone = false ↔ s.running = true → s.st = 0x00#8 := by
  rw [← Bool.not_eq_true, tone_eq_true_iff, not_and, not_not]

theorem keys_set_get (keys : Vector Bool 16) (k j : KeyCode) (b : Bool) :
    (keys.set k.toNat b)[j.toNat] = if j = k then b else keys[j.toNat] := by
  simp only [Vector.getElem_set, BitVec.toNat_inj, eq_comm (a := j)]

section step

variable {s t : State}

/-- What a step does to ST: a sound tick, LD ST,Vx, or nothing (R155, R161). -/
theorem step_st_cases (h : step s = .next t) :
    t.st = s.st ∨ (s.nextTurn = .soundTick ∧ t.st = if s.st = 0x00#8 then 0x00#8 else s.st - 1#8) ∨
      ∃ x, executing s = some (.ldStVx x) ∧ t.st = s.reg x := by
  by_cases hc : s.nextTurn = .cpu
  · refine (cpuTurn_frame h hc).st.imp_right fun ⟨x, hx⟩ => .inr ⟨x, hx, ?_⟩
    rw [step_of_executing hx] at h
    cases h
    exact afterTurn_reg s x
  · refine (eventTurn_frame h hc).st.imp_right fun hn => .inl ⟨hn, ?_⟩
    obtain ⟨-, ht⟩ := step_eq_next_iff.1 h
    rw [hn] at ht
    cases ht
    rw [State.soundTick_st, afterTurn_st]

/-- Only stop ends the run (R176). -/
theorem step_running_cases (h : step s = .next t) : t.running = true ∨ s.nextTurn = .stop := by
  obtain ⟨hr, -⟩ := step_eq_next_iff.1 h
  by_cases hc : s.nextTurn = .cpu
  · exact .inl ((cpuTurn_frame h hc).running.trans hr)
  · exact (eventTurn_frame h hc).running.imp_left fun e => e.trans hr

end step

/-! ### The statements about single steps -/

/-- Settles O7: the two bytes at PC are the word that the step decodes. -/
theorem stepRunsTheDecodedInstruction : Obligations.StepRunsTheDecodedInstruction := by
  intro s i hr hc hm _ hd
  exact step_of_executing (executing_eq_some_iff.2 ⟨⟨hr, hc, hm⟩, hd⟩)

/-- Settles O8: the no-operation advances PC. -/
theorem unrecognisedWordOnlyAdvancesPc : Obligations.UnrecognisedWordOnlyAdvancesPc := by
  intro s e hr hc hm hd
  have hstep : step s = .next s.afterTurn.advance := (step_of_cpu_run hr hc hm).trans (executeWord_of_error hd)
  exact ⟨s.afterTurn.advance, hstep, by rw [advance_pc_toNat, afterTurn_pc], rfl⟩

theorem exec_completes (i : Instr) (s : State) : Completes (exec i s) := by
  cases i <;> exact ⟨_, rfl⟩

theorem executeWord_completes (w : Word) (s : State) : Completes (executeWord w s) := by
  cases hd : decode w with
  | ok i => exact executeWord_of_ok hd ▸ exec_completes i s
  | error e => exact ⟨_, executeWord_of_error hd⟩

/-- Settles O9: each instruction's meaning ends in a next state. -/
theorem noWordAndNoOperandTraps : Obligations.NoWordAndNoOperandTraps :=
  ⟨exec_completes, executeWord_completes⟩

theorem cpuStep_completes (s : State) : Completes (cpuStep s) := by
  obtain ⟨i, -, -, e⟩ | ⟨_, -, -, e⟩ | ⟨k, -, -, e⟩ | ⟨-, -, e⟩ := cpuStep_cases s
  · exact e ▸ exec_completes i s
  all_goals exact ⟨_, e⟩

theorem runTurn_completes (turn : Turn) (s : State) : Completes (runTurn turn s) := by
  cases turn with
  | cpu => exact cpuStep_completes s
  | _ => exact ⟨_, rfl⟩

/-- Settles O10: a turn of any agent gives a next state, and only RUNNING is asked before it. -/
theorem onlyTheStoppedMachineHasNoStep : Obligations.OnlyTheStoppedMachineHasNoStep := by
  refine fun s => ⟨fun hr => ?stopped, fun hr => ?running⟩
  case stopped => rw [step, hr, if_neg Bool.false_ne_true]
  case running => exact step_of_nextTurn hr rfl ▸ runTurn_completes _ _

@[simp] theorem completeKeyWait_reg (s : State) (k : KeyCode) (y : RegNum) :
    (s.completeKeyWait k).reg y = if y = fieldX s.fetchWord then k.setWidth 8 else s.reg y :=
  s.setReg_reg (fieldX s.fetchWord) y (k.setWidth 8)

/-- A turn of the CPU in mode WaitKey: the completion with the last key, or no effect where there is none (R152). -/
theorem step_of_cpu_waitKey {s : State} (hr : s.running = true) (hc : s.nextTurn = .cpu) (hm : s.cpuMode = .waitKey) :
    step s = .next (s.lastKey.elim s.afterTurn s.afterTurn.completeKeyWait) := by
  rw [step_of_nextTurn hr hc, runTurn, cpuStep, afterTurn_cpuMode, afterTurn_lastKey, hm]
  cases s.lastKey <;> rfl

/-- A key code as a byte (R152). -/
theorem key_toNat (k : KeyCode) : (k.setWidth 8).toNat = k.toNat := BitVec.toNat_setWidth_of_le (by decide)

/-- Settles O11: with a key the turn is the completion, which writes one register; without one it passes. -/
theorem keyWaitCompletesWithTheLastKey : Obligations.KeyWaitCompletesWithTheLastKey := by
  intro s hr hc hm
  have hstep := step_of_cpu_waitKey hr hc hm
  refine ⟨fun k hk => ?key, fun hk => ?noKey⟩ <;> rw [hk] at hstep
  case key =>
    refine ⟨s.afterTurn.completeKeyWait k, hstep, ?value, fun r h => ?others, rfl, ?pc, rfl⟩
    case value => rw [completeKeyWait_reg, afterTurn_fetchWord, if_pos rfl, key_toNat]
    case others =>
      rw [completeKeyWait_reg, afterTurn_fetchWord, if_neg (List.ne_of_not_mem_cons h), afterTurn_reg]
    case pc => rw [State.completeKeyWait, advance_pc_toNat, State.setMode_pc, State.setReg_pc, afterTurn_pc]
  case noKey => exact hstep

/-- Settles O13: a tick lowers its count by one, and stays at 0. -/
theorem ticksCountDownToZero : Obligations.TicksCountDownToZero := by
  refine fun s hr => ⟨fun hn => ?delay, fun hn => ?sound⟩
  case delay =>
    refine ⟨s.afterTurn.delayTick, step_of_nextTurn hr hn, ?_, by simp [State.delayTick_eq]⟩
    rw [State.delayTick_dt, afterTurn_dt, countDown_toNat]
  case sound =>
    refine ⟨s.afterTurn.soundTick, step_of_nextTurn hr hn, ?_, by simp [State.soundTick_eq]⟩
    rw [State.soundTick_st, afterTurn_st, countDown_toNat]

/-- Settles O15: press writes one key and LAST_KEY. -/
theorem pressSetsItsKey : Obligations.PressSetsItsKey := by
  intro s k hr hn
  refine ⟨s.afterTurn.press k, step_of_nextTurn hr hn, fun j => ?_, rfl, rfl⟩
  simp only [State.press_keys, afterTurn_keys, keys_set_get]

/-- Settles O16: release writes one key. -/
theorem releaseClearsItsKey : Obligations.ReleaseClearsItsKey := by
  intro s k hr hn
  refine ⟨s.afterTurn.release k, step_of_nextTurn hr hn, fun j => ?_, rfl⟩
  simp only [State.release_keys, afterTurn_keys, keys_set_get]

/-- Settles O17: a frame decays each pixel. -/
theorem frameDecaysOffPixels : Obligations.FrameDecaysOffPixels := by
  intro s hr hn
  refine ⟨s.afterTurn.frame, step_of_nextTurn hr hn, fun r c => ?_, rfl⟩
  rw [State.frame_pixel, afterTurn_pixel, decayPixel_on, decayPixel]
  exact ⟨rfl, by split <;> rfl⟩

/-- Settles O18: stop clears the flag that every step asks. -/
theorem stopEndsTheRun : Obligations.StopEndsTheRun := by
  intro s hr hn
  exact ⟨s.afterTurn.stop, step_of_nextTurn hr hn, rfl, rfl, rfl⟩

/-! ### The statements about several steps -/

theorem core_run_succ (M : Host.Core) {s t : M.State} (h : M.step s = .next t) (k : Nat) :
    M.run (k + 1) s = M.run k t := by
  rw [Host.Core.run, h]

theorem run_succ {s t : State} (h : step s = .next t) (k : Nat) :
    Sys2Proof.core.run (k + 1) s = Sys2Proof.core.run k t :=
  core_run_succ Sys2Proof.core h k

theorem fieldX_of_decode_ldVxK {w : Word} {x : RegNum} (h : decode w = .ok (.ldVxK x)) : fieldX w = x := by
  rw [← encode_of_decode h]
  exact wordXK_x 0xF#4 x 0x0A#8

/-- Settles O12: the entry clears LAST_KEY, so the key that the completion finds is the one pressed between the two. -/
theorem keyWaitEndsWithAPressAfterEntry : Obligations.KeyWaitEndsWithAPressAfterEntry := by
  intro s x k rest hr hm hturns hd
  have hx := fieldX_of_decode_ldVxK hd
  have entry : step s = .next { s with turns := .press k :: .cpu :: rest, lastKey := none, cpuMode := .waitKey } := by
    rw [step_of_executing (executing_eq_some_iff.2 ⟨⟨hr, nextTurn_of_cons hturns, hm⟩, hd⟩), afterTurn_of_cons hturns]
    rfl
  have press : step { s with turns := .press k :: .cpu :: rest, lastKey := none, cpuMode := .waitKey }
      = .next ({ s with turns := .cpu :: rest, cpuMode := .waitKey }.press k) :=
    step_of_nextTurn (turn := .press k) hr rfl
  have completion : step ({ s with turns := .cpu :: rest, cpuMode := .waitKey }.press k)
      = .next (({ s with turns := rest, cpuMode := .waitKey }.press k).completeKeyWait k) :=
    step_of_cpu_waitKey hr rfl rfl
  refine ⟨_, (run_succ entry 2).trans ((run_succ press 1).trans (run_succ completion 0)), ?value, fun r h => ?others,
    rfl, rfl, rfl, ?down⟩
  case value => rw [completeKeyWait_reg, if_pos (by exact hx.symm), key_toNat]
  case others => exact (completeKeyWait_reg _ k r).trans (if_neg (by exact hx ▸ List.ne_of_not_mem_cons h))
  case down => exact (keys_set_get s.keys k k true).trans (if_pos rfl)

/-- Settles O14: each turn takes one off the count until it is 0. -/
theorem delayTimerRunsOutAfterItsValueInTicks : Obligations.DelayTimerRunsOutAfterItsValueInTicks := by
  intro k
  induction k with
  | zero =>
    intro s rest hr hturns
    refine ⟨s, rfl, rfl, (delayRunning_iff s).trans Nat.pos_iff_ne_zero.symm, ?_⟩
    rw [List.replicate_zero, List.nil_append] at hturns
    rw [← hturns]
  | succ k ih =>
    intro s rest hr hturns
    have hstep : step s = .next s.afterTurn.delayTick := step_of_nextTurn hr (nextTurn_of_cons hturns)
    obtain ⟨t, hrun, hdt, hrunning, ht⟩ := ih s.afterTurn.delayTick rest (by simpa using hr)
      (by simp [afterTurn_of_cons hturns])
    rw [State.delayTick_dt, afterTurn_dt, countDown_toNat] at hdt hrunning
    refine ⟨t, (run_succ hstep k).trans hrun, by omega, hrunning.trans (by omega), ht.trans ?_⟩
    rw [State.delayTick_eq, afterTurn_of_cons hturns]

/-! ### The statements about every step -/

/-- Settles O19: of what a step can do to ST and to RUNNING, only these turn the tone on or off. -/
theorem toneEdgesHaveTheirCauses : Obligations.ToneEdgesHaveTheirCauses := by
  intro s t h
  obtain ⟨hr, -⟩ := step_eq_next_iff.1 h
  refine ⟨fun hlow hhigh => ?rise, fun hhigh hlow => ?fall⟩
  case rise =>
    have hs := (tone_eq_false_iff s).1 hlow hr
    obtain ⟨-, ht⟩ := (tone_eq_true_iff t).1 hhigh
    obtain e | ⟨-, e⟩ | ⟨x, hx, e⟩ := step_st_cases h
    · exact absurd (e.trans hs) ht
    · exact absurd (e.trans (if_pos hs)) ht
    · exact ⟨x, hx, hs, e ▸ ht⟩
  case fall =>
    obtain ⟨-, hs⟩ := (tone_eq_true_iff s).1 hhigh
    obtain hrt | hstop := step_running_cases h
    · have ht := (tone_eq_false_iff t).1 hlow hrt
      obtain e | ⟨hn, e⟩ | ⟨x, hx, e⟩ := step_st_cases h
      · exact absurd (e.symm.trans ht) hs
      · rw [if_neg hs, ht] at e
        exact .inl ⟨hn, sub_eq_zero.1 e.symm⟩
      · exact .inr (.inl ⟨x, hx, e.symm.trans ht⟩)
    · exact .inr (.inr hstop)

theorem sameRegs_of_v {s t : State} (h : t.v = s.v) : SameRegs s t := fun r => by rw [State.reg, State.reg, h]

theorem sameMemory_of_mem {s t : State} (h : t.mem = s.mem) : SameMemory s t := fun a => by
  rw [State.readByte, State.readByte, h]

/-- Settles O20: the frame of an engine's or the environment's turn. -/
theorem otherAgentsLeaveTheProgramState : Obligations.OtherAgentsLeaveTheProgramState := by
  intro s t h hc
  have f := eventTurn_frame h hc
  exact ⟨sameRegs_of_v f.v, f.i, f.pc, ⟨f.sp, f.stack⟩, sameMemory_of_mem f.mem, f.cpuMode, f.status,
    f.dt.resolve_left, f.st.resolve_left, f.running.resolve_left, f.pix.resolve_left, f.keys.resolve_left,
    f.lastKey.resolve_left⟩

/-- Settles O21: the frame of a turn of the CPU. -/
theorem onlyItsInstructionsReachEachUnit : Obligations.OnlyItsInstructionsReachEachUnit := by
  intro s t h hc
  have f := cpuTurn_frame h hc
  exact ⟨f.keys, f.running, fun hne => hne.elim f.sp.resolve_left f.stack.resolve_left, f.pix.resolve_left,
    f.dt.resolve_left, f.st.resolve_left, f.lastKey.resolve_left,
    fun ⟨a, ha⟩ => f.mem.resolve_left fun e => ha (sameMemory_of_mem e a)⟩

/-- Settles O22: no agent's turn writes the straps. -/
theorem strapsNeverChange : Obligations.StrapsNeverChange := by
  intro s t h
  by_cases hc : s.nextTurn = .cpu
  · exact (cpuTurn_frame h hc).straps
  · exact (eventTurn_frame h hc).straps

end Sys2Proof.Machine
end

section
/-! SUPPORT. The flag register and the random source (41_alu.md, 10_state.md section 2): what the two orders of a flag write and a
result write do, the values written, and the statements about carries, borrows, shifts, RND and VF. -/

namespace Sys2Proof.Machine

/-! ### A result and the flag written -/

theorem sameRegsBut_flagThenReg (s : State) (f : Byte) (x : RegNum) (b : Byte) :
    SameRegsBut [x, 0xF#4] s (s.flagThenReg f x b) := by
  intro r hr
  obtain ⟨hx, hF⟩ : r ≠ x ∧ r ≠ 0xF#4 := by simpa using hr
  rw [State.flagThenReg_reg, if_neg hx, if_neg hF]

theorem sameRegsBut_regThenFlag (s : State) (f : Byte) (x : RegNum) (b : Byte) :
    SameRegsBut [x, 0xF#4] s (s.regThenFlag x b f) := by
  intro r hr
  obtain ⟨hx, hF⟩ : r ≠ x ∧ r ≠ 0xF#4 := by simpa using hr
  rw [State.regThenFlag_reg, if_neg hF, if_neg hx]

theorem sameButRegs_flagThenReg (s : State) (f : Byte) (x : RegNum) (b : Byte) : SameButRegs s (s.flagThenReg f x b) :=
  sameButRegs_setReg (s.setFlag f) x b

theorem sameButRegs_regThenFlag (s : State) (f : Byte) (x : RegNum) (b : Byte) : SameButRegs s (s.regThenFlag x b f) :=
  sameButRegs_setReg (s.setReg x b) 0xF#4 f

section exec

variable {i : Instr} {s : State} {x : RegNum} {b f : Byte}

/-- An instruction that writes the flag, then Vx, and advances PC: the result stays, and the flag where x is not F (R113). -/
theorem exec_flagThenReg (he : exec i s = .next (s.flagThenReg f x b).advance) :
    ∃ t, exec i s = .next t ∧ t.reg x = b ∧ (x ≠ 0xF#4 → t.reg 0xF#4 = f) ∧ SameRegsBut [x, 0xF#4] s t ∧
      t.pc.toNat = (s.pc.toNat + 2) % 65536 ∧ SameButRegs s t := by
  refine ⟨_, he, ?result, fun hx => ?flag, sameRegsBut_flagThenReg s f x b, advance_pc_toNat _,
    sameButRegs_flagThenReg s f x b⟩
  case result => rw [State.advance_reg, State.flagThenReg_reg, if_pos rfl]
  case flag => rw [State.advance_reg, State.flagThenReg_reg, if_neg (Ne.symm hx), if_pos rfl]

/-- An instruction that writes Vx, then the flag, and advances PC: the flag stays, and the result where x is not F (R113). -/
theorem exec_regThenFlag (he : exec i s = .next (s.regThenFlag x b f).advance) :
    ∃ t, exec i s = .next t ∧ (x ≠ 0xF#4 → t.reg x = b) ∧ t.reg 0xF#4 = f ∧ SameRegsBut [x, 0xF#4] s t ∧
      t.pc.toNat = (s.pc.toNat + 2) % 65536 ∧ SameButRegs s t := by
  refine ⟨_, he, fun hx => ?result, ?flag, sameRegsBut_regThenFlag s f x b, advance_pc_toNat _,
    sameButRegs_regThenFlag s f x b⟩
  case result => rw [State.advance_reg, State.regThenFlag_reg, if_neg hx, if_pos rfl]
  case flag => rw [State.advance_reg, State.regThenFlag_reg, if_pos rfl]

end exec

/-! ### The values -/

theorem flagByte_cases (c : Bool) : flagByte c = 0x00#8 ∨ flagByte c = 0x01#8 := by
  cases c
  · exact .inl rfl
  · exact .inr rfl

theorem flagByte_toNat (c : Bool) : (flagByte c).toNat = c.toNat := by
  cases c <;> rfl

theorem noBorrow_eq (a b : Byte) : noBorrow a b = if b.toNat ≤ a.toNat then 0x01#8 else 0x00#8 := by
  simp only [noBorrow, flagByte, decide_eq_true_eq]

theorem sub_toNat (a b : Byte) : (a - b).toNat = (a.toNat + 256 - b.toNat) % 256 := by
  have ha := a.isLt
  have hb := b.isLt
  rw [BitVec.toNat_sub]
  omega

theorem shiftRight_toNat (b : Byte) : (b >>> 1).toNat = b.toNat / 2 := by
  rw [BitVec.toNat_ushiftRight, Nat.shiftRight_eq_div_pow, pow_one]

theorem shiftLeft_toNat (b : Byte) : (b <<< 1).toNat = b.toNat * 2 % 256 := by
  rw [BitVec.toNat_shiftLeft, Nat.shiftLeft_eq, pow_one]

theorem lowBit_toNat (b : Byte) : (lowBit b).toNat = b.toNat % 2 := by
  rw [lowBit, flagByte_toNat, BitVec.getLsbD, Nat.toNat_testBit, pow_zero, Nat.div_one]

theorem topBit_toNat (b : Byte) : (topBit b).toNat = b.toNat / 128 := by
  have := b.isLt
  rw [topBit, flagByte_toNat, BitVec.getLsbD, Nat.toNat_testBit]
  omega

/-! ### VF -/

theorem loadRegs_regsUpTo_reg (s : State) (x r : RegNum) :
    (s.loadRegs (regsUpTo x)).reg r = if r.toNat ≤ x.toNat then s.readByte (s.effAddr r.toNat) else s.reg r := by
  have hx := x.isLt
  simp only [regsUpTo, loadRegs_reg s (show x.toNat + 1 ≤ 16 by omega), Nat.lt_succ_iff]

section exec

variable {i : Instr} {s t : State}

/-- An instruction that defines no flag leaves every register but its named destinations (R10, R11). -/
theorem exec_reg_of_not_mem_destinations {r : RegNum} (h : exec i s = .next t) (hf : definesFlag i = false)
    (hd : r ∉ destinations i) : t.reg r = s.reg r := by
  cases i
  case addReg | subReg | shr | subn | shl | drw => cases hf
  case ldByte | addByte | rnd | ldReg | orReg | andReg | xorReg | ldVxDt =>
    cases h
    exact sameRegsBut_setReg s _ _ r hd
  case ldMemVx x =>
    cases h
    rw [storeRegs_regsUpTo_frame]
    rfl
  case ldVxMem x =>
    cases h
    have outside : ¬ r.toNat ≤ x.toNat := fun hle =>
      hd (List.mem_map.2 ⟨r.toNat, List.mem_range.2 (Nat.lt_succ_of_le hle), by simp⟩)
    rw [State.advance_reg, State.setI_reg, loadRegs_regsUpTo_reg, if_neg outside]
  all_goals
    cases h
    rfl

/-- A flag-defining instruction that does not name VF as its destination leaves a flag there. -/
theorem exec_flag (h : exec i s = .next t) (hf : definesFlag i = true) (hd : 0xF#4 ∉ destinations i) :
    t.reg 0xF#4 = 0x00#8 ∨ t.reg 0xF#4 = 0x01#8 := by
  cases i
  case addReg x y | subReg x y | subn x y =>
    cases h
    rw [State.advance_reg, State.flagThenReg_reg, if_neg (List.ne_of_not_mem_cons hd), if_pos rfl]
    exact flagByte_cases _
  case shr x y | shl x y =>
    cases h
    rw [State.advance_reg, State.regThenFlag_reg, if_pos rfl]
    exact flagByte_cases _
  case drw x y n =>
    cases h
    rw [State.advance_reg, State.setFlag, State.setReg_reg, if_pos rfl]
    exact flagByte_cases _
  all_goals cases hf

end exec

/-- A step that changes VF executes an instruction or completes a key wait into it. -/
theorem step_flag {s t : State} (h : step s = .next t) (hne : t.reg 0xF#4 ≠ s.reg 0xF#4) :
    (∃ i, executing s = some i) ∨ (s.cpuMode = .waitKey ∧ fieldX s.fetchWord = 0xF#4) := by
  by_cases hc : s.nextTurn = .cpu
  · obtain ⟨i, hi, -⟩ | ⟨-, -, rfl⟩ | ⟨k, -, hm, rfl⟩ | ⟨-, -, rfl⟩ := cpuTurn_cases h hc
    · exact .inl ⟨i, hi⟩
    · exact absurd (afterTurn_reg s _) hne
    · refine .inr ⟨hm, by_contra fun hx => hne ?_⟩
      rw [completeKeyWait_reg, afterTurn_fetchWord, if_neg (Ne.symm hx), afterTurn_reg]
    · exact absurd (afterTurn_reg s _) hne
  · exact absurd (sameRegs_of_v (eventTurn_frame h hc).v _) hne

/-! ### The statements -/

/-- Settles O23: of the instructions that write no flag only the named destinations change, and outside an instruction only the
key-wait completion writes a register. -/
theorem flagRegisterIsWrittenOnlyAsTheRulesSay : Obligations.FlagRegisterIsWrittenOnlyAsTheRulesSay := by
  refine ⟨fun i s t h hne => ?_, fun i s t => exec_flag, fun s t => step_flag⟩
  by_contra hno
  obtain ⟨hf, hd⟩ := not_or.1 hno
  exact hne (exec_reg_of_not_mem_destinations h (Bool.eq_false_iff.2 hf) hd)

/-- Settles O40: the wrapped sum is below an operand exactly when the sum passes 255. -/
theorem addSetsCarry : Obligations.AddSetsCarry := by
  intro x y s
  obtain ⟨t, ht, hx, hF, frame⟩ := exec_flagThenReg (i := .addReg x y) (s := s) rfl
  exact ⟨t, ht, by rw [hx, BitVec.toNat_add], fun h => (hF h).trans (carryOut_eq _ _), frame⟩

/-- An instruction that subtracts `b` from `a` (R107, R109). -/
theorem exec_sub {i : Instr} {s : State} {x : RegNum} {a b : Byte}
    (he : exec i s = .next (s.flagThenReg (noBorrow a b) x (a - b)).advance) :
    ∃ t, exec i s = .next t ∧ (t.reg x).toNat = (a.toNat + 256 - b.toNat) % 256 ∧
      (x ≠ 0xF#4 → t.reg 0xF#4 = if b.toNat ≤ a.toNat then 0x01#8 else 0x00#8) ∧ SameRegsBut [x, 0xF#4] s t ∧
      t.pc.toNat = (s.pc.toNat + 2) % 65536 ∧ SameButRegs s t := by
  obtain ⟨t, ht, hx, hF, frame⟩ := exec_flagThenReg he
  exact ⟨t, ht, by rw [hx, sub_toNat], fun h => (hF h).trans (noBorrow_eq a b), frame⟩

/-- Settles O41: the two subtractions are one with its operands exchanged. -/
theorem subtractionsSetNoBorrow : Obligations.SubtractionsSetNoBorrow :=
  fun x y _ => ⟨exec_sub (i := .subReg x y) rfl, exec_sub (i := .subn x y) rfl⟩

/-- Settles O42: the shifted byte and the bit that left are the quotient and the remainder of the source. -/
theorem shiftsFollowTheVariant : Obligations.ShiftsFollowTheVariant := by
  intro x y s src hsrc
  rw [← shiftSource_eq] at hsrc
  subst hsrc
  refine ⟨?shr, ?shl⟩
  case shr =>
    obtain ⟨t, ht, hx, hF, frame⟩ := exec_regThenFlag (i := .shr x y) (s := s) rfl
    exact ⟨t, ht, fun h => by rw [hx h, shiftRight_toNat], by rw [hF, lowBit_toNat], frame⟩
  case shl =>
    obtain ⟨t, ht, hx, hF, frame⟩ := exec_regThenFlag (i := .shl x y) (s := s) rfl
    exact ⟨t, ht, fun h => by rw [hx h, shiftLeft_toNat], by rw [hF, topBit_toNat], frame⟩

/-- Settles O43: the byte is masked bit by bit, and the counter of draws goes on by one. -/
theorem randomIsAFreshDrawUnderTheMask : Obligations.RandomIsAFreshDrawUnderTheMask := by
  intro x kk s
  obtain ⟨index, stack, memory, display, timers, keypad, control, -, turns, turnsDrawn⟩ :=
    sameButRegs_setReg s.countDraw x (Config.draw8 s.draws &&& kk)
  refine ⟨rndWith (Config.draw8 s.draws) x kk s, rfl, fun b _ => ?_, rfl, sameRegsBut_setReg s.countDraw x _,
    advance_pc_toNat _, index, stack, memory, display, timers, keypad, control, turns, turnsDrawn⟩
  rw [rndWith, State.advance_reg, State.setReg_reg, if_pos rfl, BitVec.getLsbD_and]

end Sys2Proof.Machine
end

section
/-! SUPPORT. The call stack (40_flow.md section 2): CALL and RET, runs of instructions, and calls that return in nested pairs. -/

namespace Sys2Proof.Machine

/-! ### The statements about one instruction -/

theorem sameDevices_setPc (s : State) (w : Word) : SameDevices s (s.setPc w) :=
  let ⟨_, _, _, _, devices⟩ := sameButPc_setPc s w
  devices

theorem push_stack_get (s : State) (w : Word) (j : Fin 16) :
    (s.push w).stack[j] = if j.val = (s.sp.toNat + 1) % 16 then w else s.stack[j] := by
  simp only [State.push_stack, Fin.getElem_fin, Vector.getElem_set, stackIndex_succ, eq_comm (a := j.val)]

/-- Settles O31: RET reads the entry at SP and writes no entry. -/
theorem retPopsTheReturnAddress : Obligations.RetPopsTheReturnAddress := by
  intro s
  refine ⟨s.drop.setPc s.top, rfl, fun j hj => ?entry, ?sp, rfl, fun _ => rfl, rfl, fun _ => rfl,
    sameDevices_setPc s.drop s.top⟩
  case entry =>
    have : j = stackIndex s.sp := Fin.ext hj
    rw [this]
    rfl
  case sp =>
    rw [State.setPc_sp, State.drop_sp, sub_toNat]
    rfl

/-- Settles O33: CALL writes the entry at the new SP and no other. -/
theorem callPushesTheReturnAddress : Obligations.CallPushesTheReturnAddress := by
  intro nnn s
  refine ⟨(s.push (s.pc + 2#16)).setPc (zextAddr nnn), rfl, zextAddr_toNat nnn, BitVec.toNat_add _ _, fun j => ?entry,
    fun _ => rfl, rfl, fun _ => rfl, sameDevices_setPc (s.push (s.pc + 2#16)) _⟩
  case entry =>
    rw [State.setPc_stack, push_stack_get]
    split
    · exact BitVec.toNat_add _ _
    · rfl

/-! ### Runs of instructions -/

theorem execAll_cons {i : Instr} {s t : State} (h : exec i s = .next t) (l : List Instr) :
    execAll (i :: l) s = execAll l t := by
  rw [execAll, h]

theorem execAll_append {l : List Instr} {s t : State} (h : execAll l s = .next t) (l' : List Instr) :
    execAll (l ++ l') s = execAll l' t := by
  induction l generalizing s with
  | nil =>
    cases h
    rfl
  | cons i l ih =>
    obtain ⟨u, hu⟩ := exec_completes i s
    rw [execAll_cons hu] at h
    rw [List.cons_append, execAll_cons hu, ih h]

/-! ### Nested calls -/

/-- What a run of `n` nested calls that have all returned leaves: of the stack only the `n` entries above SP are written, and PC
and these entries apart nothing has changed, SP included. -/
structure CallsReturned (n : Nat) (s t : State) : Prop where
  entry : ∀ j : Fin 16, (∀ k, 1 ≤ k → k ≤ n → j.val ≠ (s.sp.toNat + k) % 16) → t.stack[j] = s.stack[j]
  others : t = { s with pc := t.pc, stack := t.stack }

section wrap

variable {n : Nat} {s t : State} {a : Addr}

theorem CallsReturned.sp_eq (h : CallsReturned n s t) : t.sp = s.sp := by
  rw [h.others]

/-- The calls inside a call write the entries above the one it has pushed to: fifteen or fewer leave that entry. -/
theorem CallsReturned.top_eq (hn : n < 16) (h : CallsReturned n ((s.push (s.pc + 2#16)).setPc (zextAddr a)) t) :
    t.top = s.pc + 2#16 := by
  have hj := stackIndex_succ s.sp
  have htop : t.top = t.stack[stackIndex (s.sp + 1#8)] := by
    simp only [State.top, h.sp_eq, State.setPc_sp, State.push_sp]
  rw [htop, h.entry, State.setPc_stack, push_stack_get, if_pos hj]
  intro k h1 hk
  rw [hj, State.setPc_sp, State.push_sp, BitVec.toNat_add, BitVec.toNat_ofNat]
  omega

/-- A call around calls that have returned, returned itself. -/
theorem CallsReturned.wrap (h : CallsReturned n ((s.push (s.pc + 2#16)).setPc (zextAddr a)) t) :
    CallsReturned (n + 1) s (t.drop.setPc t.top) := by
  refine ⟨fun j hj => ?_, ?_⟩
  · have inner : ∀ k, 1 ≤ k → k ≤ n → j.val ≠ ((s.sp + 1#8).toNat + k) % 16 := by
      intro k _ hk
      have := hj (k + 1) (by omega) (by omega)
      rw [BitVec.toNat_add, BitVec.toNat_ofNat]
      omega
    rw [State.setPc_stack, State.drop_stack, h.entry j inner, State.setPc_stack, push_stack_get,
      if_neg (hj 1 (le_refl 1) (by omega))]
  · have hsp : t.sp - 1#8 = s.sp := by
      rw [h.sp_eq, State.setPc_sp, State.push_sp, BitVec.add_sub_cancel]
    rw [State.drop, hsp, h.others]
    rfl

end wrap

/-- The calls and returns in a nested pair of lists: `calls` first, as many RETs after. -/
def callsAndReturns (targets : List Addr) : List Instr :=
  targets.map .call ++ List.replicate targets.length .ret

theorem callsAndReturns_cons (a : Addr) (targets : List Addr) :
    callsAndReturns (a :: targets) = .call a :: (callsAndReturns targets ++ [.ret]) := by
  simp [callsAndReturns, List.replicate_succ']

/-- Up to sixteen nested calls return, and PC is then the address after the first: the inner calls write the entries above the
one it has pushed to, and all of these are other entries. -/
theorem execAll_callsAndReturns (targets : List Addr) (s : State) (hlen : targets.length ≤ 16) :
    ∃ t, execAll (callsAndReturns targets) s = .next t ∧ CallsReturned targets.length s t ∧
      (targets ≠ [] → t.pc = s.pc + 2#16) := by
  induction targets generalizing s with
  | nil => exact ⟨s, rfl, ⟨fun _ _ => rfl, rfl⟩, fun h => absurd rfl h⟩
  | cons a targets ih =>
    rw [List.length_cons] at hlen
    obtain ⟨t, ht, hret, -⟩ := ih ((s.push (s.pc + 2#16)).setPc (zextAddr a)) (by omega)
    refine ⟨t.drop.setPc t.top, ?_, hret.wrap, fun _ => hret.top_eq (by omega)⟩
    rw [callsAndReturns_cons, execAll_cons rfl, execAll_append ht]
    rfl

/-- Settles O34: nested calls return, whatever SP was. -/
theorem sixteenNestedCallsReturn : Obligations.SixteenNestedCallsReturn := by
  intro targets s hpos hlen
  obtain ⟨t, ht, hret, hpc⟩ := execAll_callsAndReturns targets s hlen
  refine ⟨t, ht, ?pc, hret.sp_eq, ?_, ?_, ?_, ?_⟩
  case pc => rw [hpc (List.ne_nil_of_length_pos hpos), BitVec.toNat_add]; rfl
  all_goals rw [hret.others]
  · exact fun _ => rfl
  · rfl
  · exact fun _ => rfl
  · exact sameDevices_setPc { s with stack := t.stack } t.pc

end Sys2Proof.Machine
end

section
/-! SUPPORT. Index register and memory (42_index_memory.md, 20_memory.md): the fetch, the decimal digits, and the block moves of
Fx55 and Fx65 from the program's side. -/

namespace Sys2Proof.Machine

/-! ### Addresses -/

theorem memIndex_add_one (a : Word) : memIndex (a + 1#16) = (a.toNat + 1) % 4096 := by
  rw [memIndex, BitVec.toNat_add, BitVec.toNat_ofNat]
  omega

theorem wordOfBytes_toNat (hi lo : Byte) : (wordOfBytes hi lo).toNat = 256 * hi.toNat + lo.toNat := by
  rw [wordOfBytes, BitVec.toNat_append, Nat.shiftLeft_eq, Nat.mul_comm, ← Nat.two_pow_add_eq_or_of_lt lo.isLt]

theorem offset_effAddr (s : State) {k : Nat} (hk : k < 4096) : s.offset (s.effAddr k) = k :=
  (memIndex_eq_effAddr_iff s _ hk).1 rfl

theorem offset_ge_of_outside {s : State} {n : Nat} (hn : n ≤ 4096) {a : Word}
    (h : ∀ k < n, memIndex a ≠ memIndex (s.effAddr k)) : n ≤ s.offset a := by
  by_contra hlt
  rw [not_le] at hlt
  exact h _ hlt ((memIndex_eq_effAddr_iff s a (by omega)).2 rfl)

theorem glyphAddress_toNat (b : Byte) : (glyphAddress b).toNat = b.toNat * 5 := by
  have := b.isLt
  rw [glyphAddress, BitVec.toNat_mul, zextByte_toNat, BitVec.toNat_ofNat]
  omega

/-! ### Digits -/

theorem hundreds_toNat (b : Byte) : (hundreds b).toNat = b.toNat / 100 := by
  have := b.isLt
  rw [hundreds, BitVec.toNat_ofNat]
  omega

theorem tens_toNat (b : Byte) : (tens b).toNat = b.toNat / 10 % 10 := by
  rw [tens, BitVec.toNat_ofNat]
  omega

theorem ones_toNat (b : Byte) : (ones b).toNat = b.toNat % 10 := by
  rw [ones, BitVec.toNat_ofNat]
  omega

/-! ### What a block move leaves unchanged -/

section frame

variable {s t : State}

/-- An instruction that writes memory, I and PC alone leaves the rest. -/
theorem same_of_memory_written (h : t = { s with mem := t.mem, i := t.i, pc := t.pc }) :
    SameRegs s t ∧ SameStack s t ∧ SameDevices s t := by
  rw [h]
  exact ⟨fun _ => rfl, ⟨rfl, rfl⟩, fun _ _ => rfl, ⟨rfl, rfl⟩, ⟨rfl, rfl⟩, ⟨rfl, rfl, rfl⟩, rfl, rfl, rfl⟩

/-- An instruction that writes registers, I and PC alone leaves the rest. -/
theorem same_of_registers_written (h : t = { s with v := t.v, i := t.i, pc := t.pc }) :
    SameMemory s t ∧ SameStack s t ∧ SameDevices s t := by
  rw [h]
  exact ⟨fun _ => rfl, ⟨rfl, rfl⟩, fun _ _ => rfl, ⟨rfl, rfl⟩, ⟨rfl, rfl⟩, ⟨rfl, rfl, rfl⟩, rfl, rfl, rfl⟩

end frame

/-! ### Bytes written from I on -/

section written

variable {s : State}

/-- Three bytes written at I, I + 1 and I + 2. -/
theorem writeByte_three_readByte (h : Memory.wf s.mem = true) (b₀ b₁ b₂ : Byte) (a : Word) :
    (((s.writeByte (s.effAddr 0) b₀).writeByte (s.effAddr 1) b₁).writeByte (s.effAddr 2) b₂).readByte a
      = if s.offset a = 2 then b₂ else if s.offset a = 1 then b₁ else if s.offset a = 0 then b₀ else s.readByte a := by
  have h₁ := writeByte_wf h (s.effAddr 0) b₀
  have h₂ := writeByte_wf h₁ (s.effAddr 1) b₁
  rw [writeByte_readByte h₂, writeByte_readByte h₁, writeByte_readByte h]
  simp only [memIndex_eq_effAddr_iff s a (show 2 < 4096 by decide), memIndex_eq_effAddr_iff s a (show 1 < 4096 by decide),
    memIndex_eq_effAddr_iff s a (show 0 < 4096 by decide)]

theorem storeRegs_regsUpTo_readByte (h : Memory.wf s.mem = true) (x : RegNum) (a : Word) :
    (s.storeRegs (regsUpTo x)).readByte a
      = if s.offset a ≤ x.toNat then s.reg (BitVec.ofNat 4 (s.offset a)) else s.readByte a := by
  have hx := x.isLt
  simp only [regsUpTo, storeRegs_readByte h (show x.toNat + 1 ≤ 16 by omega), Nat.lt_succ_iff]

/-- Register r stands at I + r after the store (R124). -/
theorem storeRegs_regsUpTo_effAddr (h : Memory.wf s.mem = true) {x r : RegNum} (hr : r.toNat ≤ x.toNat) :
    (s.storeRegs (regsUpTo x)).readByte (s.effAddr r.toNat) = s.reg r := by
  have hlt := r.isLt
  rw [storeRegs_regsUpTo_readByte h, offset_effAddr s (by omega), if_pos hr, BitVec.ofNat_toNat, BitVec.setWidth_eq]

end written

/-! ### The statements -/

/-- Settles O45: the product of a byte and 5 fits I. -/
theorem glyphAddressIsFiveTimesVx : Obligations.GlyphAddressIsFiveTimesVx := by
  intro x s
  obtain ⟨t, ht, hi, frame⟩ := exec_setI (i := .ldF x) (s := s) rfl
  exact ⟨t, ht, by rw [hi, glyphAddress_toNat], frame⟩

/-- Settles O46: the three addresses are three entries, and each digit fits its byte. -/
theorem decimalDigitsAreStored : Obligations.DecimalDigitsAreStored := by
  intro x s hwf
  have read := writeByte_three_readByte hwf (hundreds (s.reg x)) (tens (s.reg x)) (ones (s.reg x))
  refine ⟨_, rfl, ?hundreds, ?tens, ?ones, fun a ha => ?outside, advance_pc_toNat _, fun _ => rfl, rfl, ?rest⟩
  case hundreds => rw [State.advance_readByte, read, offset_effAddr s (by decide)]; exact hundreds_toNat _
  case tens => rw [State.advance_readByte, read, offset_effAddr s (by decide)]; exact tens_toNat _
  case ones => rw [State.advance_readByte, read, offset_effAddr s (by decide)]; exact ones_toNat _
  case outside =>
    have := offset_ge_of_outside (by decide) ha
    rw [State.advance_readByte, read, if_neg (by omega), if_neg (by omega), if_neg (by omega)]
  case rest => exact (same_of_memory_written rfl).2

/-- Settles O47: the entries from I on hold the registers in turn, and I ends where the variant says. -/
theorem registersAreStored : Obligations.RegistersAreStored := by
  intro x s hwf
  have rest := same_of_memory_written (s := s) (t := ((s.storeRegs (regsUpTo x)).setI (s.cursorAfter x)).advance)
    (by rw [storeRegs_regsUpTo_frame]; rfl)
  refine ⟨((s.storeRegs (regsUpTo x)).setI (s.cursorAfter x)).advance, rfl,
    fun r hr => storeRegs_regsUpTo_effAddr hwf hr, fun a ha => ?outside, cursorAfter_toNat s x, ?pc, rest⟩
  case outside =>
    have hx := x.isLt
    have := offset_ge_of_outside (by omega) ha
    rw [State.advance_readByte, State.setI_readByte, storeRegs_regsUpTo_readByte hwf, if_neg (by omega)]
  case pc => rw [advance_pc_toNat, State.setI_pc, storeRegs_regsUpTo_frame]

/-- Settles O48: the registers hold the bytes from I on in turn, and I ends where the variant says. -/
theorem registersAreLoaded : Obligations.RegistersAreLoaded := by
  intro x s
  have rest := same_of_registers_written (s := s) (t := ((s.loadRegs (regsUpTo x)).setI (s.cursorAfter x)).advance)
    (by rw [loadRegs_regsUpTo_frame]; rfl)
  refine ⟨((s.loadRegs (regsUpTo x)).setI (s.cursorAfter x)).advance, rfl, loadRegs_regsUpTo_reg s x,
    cursorAfter_toNat s x, ?pc, rest⟩
  rw [advance_pc_toNat, State.setI_pc, loadRegs_regsUpTo_frame]

/-- Settles O49: the load reads the addresses that the store wrote, since both count from the same I. -/
theorem storeThenLoadRestoresRegisters : Obligations.StoreThenLoadRestoresRegisters := by
  intro x s between hwf
  refine ⟨((s.storeRegs (regsUpTo x)).setI (s.cursorAfter x)).advance, _, rfl, rfl, fun r hr => ?regs, ?index⟩
  case regs =>
    rw [State.advance_reg, State.setI_reg, loadRegs_regsUpTo_reg, if_pos hr]
    exact storeRegs_regsUpTo_effAddr hwf hr
  case index =>
    rw [storeRegs_regsUpTo_frame]
    rfl

/-- Settles O50: the next fetch reads the two entries that the store wrote first. -/
theorem storeIsSeenByTheNextFetch : Obligations.StoreIsSeenByTheNextFetch := by
  intro s hwf hi
  refine ⟨((s.storeRegs (regsUpTo 0x1#4)).setI (s.cursorAfter 0x1#4)).advance, rfl, ?_⟩
  have hpc : ((s.storeRegs (regsUpTo 0x1#4)).setI (s.cursorAfter 0x1#4)).advance.pc = s.i := by
    rw [State.advance_pc, State.setI_pc, storeRegs_regsUpTo_frame, hi]
  have first := storeRegs_regsUpTo_effAddr hwf (x := 0x1#4) (r := 0x0#4) (by decide)
  have second := storeRegs_regsUpTo_effAddr hwf (x := 0x1#4) (r := 0x1#4) (by decide)
  rw [State.fetchWord, hpc, State.advance_readByte, State.setI_readByte, State.advance_readByte, State.setI_readByte]
  rw [show s.effAddr (0x0#4).toNat = s.i from BitVec.add_zero s.i] at first
  rw [first]
  exact congrArg (wordOfBytes _) second

/-- Settles O51: an address reaches the entry it leaves modulo 4096, and so does the next one. -/
theorem fetchUsesPcModulo4096 : Obligations.FetchUsesPcModulo4096 := by
  intro s w hw
  have next : memIndex (w + 1#16) = memIndex (s.pc + 1#16) := by
    rw [memIndex_add_one, memIndex_add_one]
    omega
  refine ⟨?same, ?value⟩
  case same =>
    simp only [State.fetchWord, State.readByte, State.setPc_pc, State.setPc_mem, next]
    rw [show memIndex w = memIndex s.pc from hw]
  case value =>
    rw [State.fetchWord, wordOfBytes_toNat, State.readByte, State.readByte, memIndex_add_one, memIndex]

end Sys2Proof.Machine
end

section
/-! SUPPORT. Reset and launch (10_state.md section 7, 70_reset_and_hazards.md section 1): the image that the loader builds, region by
region, and the statements about the state after reset and the loader's answers. -/

namespace Sys2Proof.Machine

/-! ### The image -/

section image

variable {memInit : Nat → Byte} {program : List Byte} {k : Nat}

/-- The three regions, with their bounds as numbers. -/
theorem imageByte_eq :
    imageByte memInit program k
      = if k < 0x050 then glyphs.getD k 0x00#8
        else if k < 0x200 then memInit k else program.getD (k - 0x200) (memInit k) := rfl

theorem imageByte_of_glyph (h : k < 0x050) : imageByte memInit program k = glyphs.getD k 0x00#8 := by
  rw [imageByte_eq, if_pos h]

theorem imageByte_below_program (hg : 0x050 ≤ k) (hl : k < 0x200) : imageByte memInit program k = memInit k := by
  rw [imageByte_eq, if_neg (by omega), if_pos hl]

theorem imageByte_from_loadAddr (h : 0x200 ≤ k) :
    imageByte memInit program k = program.getD (k - 0x200) (memInit k) := by
  rw [imageByte_eq, if_neg (by omega), if_neg (by omega)]

theorem imageByte_in_program (hl : 0x200 ≤ k) (h : k - 0x200 < program.length) :
    imageByte memInit program k = program[k - 0x200] := by
  rw [imageByte_from_loadAddr hl, List.getD_eq_getElem _ _ h]

theorem imageByte_above_program (h : 0x200 + program.length ≤ k) : imageByte memInit program k = memInit k := by
  rw [imageByte_from_loadAddr (by omega), List.getD_eq_default _ _ (by omega)]

end image

/-! ### The loaded machine -/

/-- The machine at its first fetch (R194). -/
def loaded (straps : Straps) (memInit : Nat → Byte) (stackInit : Vector Word 16) (program : List Byte) : State :=
  { State.reset with
    straps := straps
    stack := stackInit
    mem := Memory.ofImage (imageByte memInit program) }

section loaded

variable (straps : Straps) (memInit : Nat → Byte) (stackInit : Vector Word 16) {program : List Byte}

theorem length_of_wellFormedProgram (h : wellFormedProgram program = true) :
    0 < program.length ∧ program.length ≤ 0xE00 := by
  rwa [wellFormedProgram, Bool.and_eq_true, decide_eq_true_eq, decide_eq_true_eq] at h

theorem launch_of_wellFormed (h : wellFormedProgram program = true) :
    launch straps memInit stackInit program = .ok (loaded straps memInit stackInit program) := by
  obtain ⟨hpos, hmax⟩ := length_of_wellFormedProgram h
  rw [launch, maxProgramLength, if_neg (by omega), if_neg (by omega), loaded]

theorem loaded_mem :
    (loaded straps memInit stackInit program).mem = Memory.ofImage (imageByte memInit program) := by
  rw [loaded]

theorem loaded_eq :
    loaded straps memInit stackInit program
      = { State.reset with
          straps := straps, stack := stackInit, mem := (loaded straps memInit stackInit program).mem } := by
  rw [loaded_mem, loaded]

theorem loaded_readByte {a : Word} (h : a.toNat < 0x1000) :
    (loaded straps memInit stackInit program).readByte a = imageByte memInit program a.toNat := by
  rw [State.readByte, loaded_mem, ofImage_get _ (memIndex_lt a), memIndex, Nat.mod_eq_of_lt h]

theorem loaded_inv : Inv (loaded straps memInit stackInit program) := by
  refine ⟨?_, fun r c => State.reset_pixel r c ▸ pixelInv_blankPixel straps.fadeMax⟩
  rw [loaded_mem]
  exact ofImage_wf _

end loaded

/-! ### The statements -/

/-- Settles O28: the values of the fields of the reset state. -/
theorem resetStateIsAsTheTableSays : Obligations.ResetStateIsAsTheTableSays := by
  refine ⟨rfl, fun r => ?regs, rfl, rfl, fun r c => ?pixels, rfl, rfl, rfl, rfl, rfl, fun k => ?keys, rfl, rfl, rfl,
    fun k hk => ?glyph⟩
  case regs => exact Vector.getElem_replicate _
  case pixels => rw [State.reset_pixel]; exact ⟨rfl, rfl⟩
  case keys => exact Vector.getElem_replicate _
  case glyph => interval_cases k <;> rfl

/-- Settles O29: the four regions of the image, each below 0x1000. -/
theorem launchLoadsTheProgram : Obligations.LaunchLoadsTheProgram := by
  intro straps memInit stackInit program hwf
  have read := @loaded_readByte straps memInit stackInit program
  refine ⟨loaded straps memInit stackInit program, launch_of_wellFormed straps memInit stackInit hwf, rfl, rfl,
    loaded_inv straps memInit stackInit, loaded_eq straps memInit stackInit, fun a h => ?glyphs,
    fun a hg hl => ?below, fun a h hl => ?program, fun a h hmax => ?above⟩
  case glyphs => rw [read (by omega), imageByte_of_glyph h]
  case below => rw [read (by omega), imageByte_below_program hg hl]
  case program =>
    obtain ⟨-, hmax⟩ := length_of_wellFormedProgram hwf
    rw [read (by omega), imageByte_in_program hl h]
  case above => rw [read hmax, imageByte_above_program h]

/-- Settles O30: the loader asks both bounds first. -/
theorem launchRefusesBadLengths : Obligations.LaunchRefusesBadLengths := by
  refine fun straps memInit stackInit program => ⟨fun h => ?empty, fun h => ?long⟩
  case empty => rw [launch, if_pos h]
  case long => rw [launch, maxProgramLength, if_neg (by omega), if_pos h]

end Sys2Proof.Machine
end

section
/-! SUPPORT. Keypad and timer instructions (44_keys_timers.md): the statements about SKP, SKNP, the entry of LD Vx,K and the two
timer writes. -/

namespace Sys2Proof.Machine

/-- Settles O57: both skips test the same key, one for it, the other against it. -/
theorem keySkips : Obligations.KeySkips := by
  intro x s down hdown
  have pressed : s.keyPressed (s.reg x) = true ↔ down = true := (keyPressed_iff s (s.reg x)).trans hdown.symm
  have released : (!s.keyPressed (s.reg x)) = true ↔ ¬ down = true := by
    rw [Bool.not_eq_true', ← pressed, Bool.not_eq_true]
  refine ⟨exec_skips rfl pressed, ?sknp⟩
  simpa only [ite_not] using exec_skips (i := .sknp x) rfl released

/-- Settles O58: the entry step writes LAST_KEY and the mode alone. -/
theorem keyWaitEntryClearsLastKey : Obligations.KeyWaitEntryClearsLastKey := by
  intro x s
  exact ⟨(s.setLastKey none).setMode .waitKey, rfl, rfl, rfl, rfl, rfl, fun _ => rfl, rfl, ⟨rfl, rfl⟩, fun _ => rfl,
    fun _ _ => rfl, ⟨rfl, rfl⟩, rfl, rfl, rfl, rfl, rfl⟩

/-- Settles O60: each instruction writes one timer, and engine and tone are read off the timers. -/
theorem timersAreSet : Obligations.TimersAreSet := by
  refine fun x s => ⟨?dt, ?st⟩
  case dt =>
    have engine : (s.setDt (s.reg x)).advance.delayRunning = true ↔ (s.reg x).toNat ≠ 0 :=
      delayRunning_iff _
    exact ⟨(s.setDt (s.reg x)).advance, rfl, rfl, rfl, engine, advance_pc_toNat _, fun _ => rfl, rfl, ⟨rfl, rfl⟩,
      fun _ => rfl, fun _ _ => rfl, ⟨rfl, rfl⟩, ⟨rfl, rfl, rfl⟩, rfl, rfl, rfl⟩
  case st =>
    have engine : (s.setSt (s.reg x)).advance.soundRunning = true ↔ (s.reg x).toNat ≠ 0 := soundRunning_iff _
    have tone : (s.setSt (s.reg x)).advance.tone = true ↔ s.running = true ∧ (s.reg x).toNat ≠ 0 :=
      Bool.and_eq_true_iff.trans (and_congr_right fun _ => engine)
    exact ⟨(s.setSt (s.reg x)).advance, rfl, rfl, rfl, engine, tone, advance_pc_toNat _, fun _ => rfl, rfl, ⟨rfl, rfl⟩,
      fun _ => rfl, fun _ _ => rfl, ⟨rfl, rfl⟩, ⟨rfl, rfl, rfl⟩, rfl, rfl, rfl⟩

end Sys2Proof.Machine
end

section
/-! SUPPORT. The display (43_display.md): what DRW does to a pixel and to VF, which sprite bit reaches a pixel, and the statements
about CLS, DRW and the statuses over every step. -/

namespace Sys2Proof.Machine

/-- The state after a DRW (R131). -/
def State.drawn (s : State) (x y : RegNum) (n : RowCount) : State :=
  ((s.setPix (s.drwBlit x y n).pix).setFlag (flagByte (s.drwBlit x y n).collided)).advance

theorem exec_drw (x y : RegNum) (n : RowCount) (s : State) : exec (.drw x y n) s = .next (s.drawn x y n) := rfl

section drawn

variable (s : State) (x y : RegNum) (n : RowCount) (r : Fin 32) (c : Fin 64)

/-! ### Pixels -/

theorem drawn_pixel :
    (s.drawn x y n).pixel r c
      = if spriteCovers s x y n r c = true then togglePixel s.straps.fadeMax (s.pixel r c) else s.pixel r c := by
  have toggles := drwBlit_toggles s x y n
  split
  · next h => exact toggles.hit r c h
  · next h => exact toggles.miss r c h

theorem drawn_pixel_on : ((s.drawn x y n).pixel r c).on = ((s.pixel r c).on ^^ spriteCovers s x y n r c) := by
  rw [drawn_pixel]
  cases spriteCovers s x y n r c
  · rw [if_neg Bool.false_ne_true, Bool.xor_false]
  · rw [if_pos rfl, togglePixel_on, Bool.xor_true]

/-! ### VF -/

theorem drawn_flag : (s.drawn x y n).reg 0xF#4 = flagByte (s.drwBlit x y n).collided :=
  (State.setReg_reg _ 0xF#4 0xF#4 _).trans (if_pos rfl)

theorem flagByte_eq_one_iff (b : Bool) : flagByte b = 0x01#8 ↔ b = true := by
  cases b <;> decide

/-- The flag says that the sprite covered a pixel that was on (R136). -/
theorem drawn_flag_eq_one_iff :
    (s.drawn x y n).reg 0xF#4 = 0x01#8 ↔ ∃ r c, spriteCovers s x y n r c = true ∧ (s.pixel r c).on = true := by
  rw [drawn_flag, flagByte_eq_one_iff, (drwBlit_toggles s x y n).flag]
  simp only [Bool.false_eq_true, false_or]
  rfl

/-- A covered pixel that was on is one that went from on to off. -/
theorem covered_on_iff :
    spriteCovers s x y n r c = true ∧ (s.pixel r c).on = true ↔
      (s.pixel r c).on = true ∧ ((s.drawn x y n).pixel r c).on = false := by
  rw [drawn_pixel_on]
  cases spriteCovers s x y n r c <;> cases (s.pixel r c).on <;> decide

/-! ### The sprite bit that reaches a pixel -/

variable {s x y n r c}

theorem spriteCovers_eq_bit {row col : Nat} (hreach : inReach s.straps.drawPolicy (s.spriteCol x) (s.spriteRow y) r c = true)
    (hrow : row < n.toNat) (hcol : col < 8) (er : (r.val + 32 - s.spriteRow y) % 32 = row)
    (ec : (c.val + 64 - s.spriteCol x) % 64 = col) :
    spriteCovers s x y n r c = (s.readByte (s.effAddr row)).getLsbD (7 - col) := by
  rw [spriteCovers, hreach, er, ec, decide_eq_true hrow, decide_eq_true hcol, Bool.and_self, Bool.and_self, Bool.true_and]

theorem spriteCovers_of_not_inReach (h : inReach s.straps.drawPolicy (s.spriteCol x) (s.spriteRow y) r c = false) :
    spriteCovers s x y n r c = false := by
  rw [spriteCovers, h, Bool.false_and, Bool.false_and, Bool.false_and]

/-- Where x and y are not F, a DRW leaves its sprite and its place as they were. -/
theorem drawn_spriteCovers (hx : x ≠ 0xF#4) (hy : y ≠ 0xF#4) :
    spriteCovers (s.drawn x y n) x y n r c = spriteCovers s x y n r c := by
  have reg : ∀ z, z ≠ 0xF#4 → (s.drawn x y n).reg z = s.reg z := fun z hz =>
    (State.setReg_reg _ 0xF#4 z _).trans (if_neg hz)
  have hcol : (s.drawn x y n).spriteCol x = s.spriteCol x := by rw [State.spriteCol, reg x hx, State.spriteCol]
  have hrow : (s.drawn x y n).spriteRow y = s.spriteRow y := by rw [State.spriteRow, reg y hy, State.spriteRow]
  rw [spriteCovers, hcol, hrow]
  rfl

end drawn

/-! ### The statements -/

/-- Settles O52: the blank grid. -/
theorem clsBlanksTheDisplay : Obligations.ClsBlanksTheDisplay := by
  intro s
  refine ⟨(s.setPix blankDisplay).advance, rfl, fun r c => ?pixels, advance_pc_toNat _, fun _ => rfl, rfl, ⟨rfl, rfl⟩,
    fun _ => rfl, ⟨rfl, rfl⟩, ⟨rfl, rfl⟩, ⟨rfl, rfl, rfl⟩, rfl, rfl, rfl⟩
  rw [State.advance_pixel, State.setPix_blank_pixel]
  exact ⟨rfl, rfl⟩

/-- Settles O53: the blit toggles the covered pixels, and collides where one of them was on. -/
theorem drawTogglesTheCoveredPixels : Obligations.DrawTogglesTheCoveredPixels := by
  intro x y n s
  refine ⟨s.drawn x y n, rfl, fun r c => ?pixels, ?collision, ?flag, fun z hz => ?regs, advance_pc_toNat _, rfl, ⟨rfl, rfl⟩,
    fun _ => rfl, ⟨rfl, rfl⟩, ⟨rfl, rfl⟩, ⟨rfl, rfl, rfl⟩, rfl, rfl, rfl⟩
  case pixels =>
    rw [drawn_pixel]
    split
    · exact ⟨togglePixel_on _ _, by unfold togglePixel; split <;> rfl⟩
    · rfl
  case collision =>
    rw [drawn_flag_eq_one_iff]
    exact exists₂_congr fun r c => covered_on_iff s x y n r c
  case flag => exact drawn_flag s x y n ▸ flagByte_cases _
  case regs => exact (State.setReg_reg _ 0xF#4 z _).trans (if_neg (List.ne_of_not_mem_cons hz))

/-- Settles O54: under wrap every pixel is in reach, and fewer than 32 rows and 64 columns do not meet themselves. -/
theorem wrapDrawsEverySpriteBit : Obligations.WrapDrawsEverySpriteBit := by
  intro x y n s hwrap
  refine ⟨s.drawn x y n, rfl, fun r c row col hrow hcol er ec => ?_⟩
  have hn := n.isLt
  have reach : inReach s.straps.drawPolicy (s.spriteCol x) (s.spriteRow y) r c = true := by rw [hwrap]; rfl
  rw [drawn_pixel_on, spriteCovers_eq_bit reach hrow hcol]
  · rw [State.spriteRow]; omega
  · rw [State.spriteCol]; omega

/-- Settles O55: under clip a pixel is in reach at and after the start alone. -/
theorem clipDrawsOnlyOnTheGrid : Obligations.ClipDrawsOnlyOnTheGrid := by
  intro x y n s hclip
  refine ⟨s.drawn x y n, rfl, fun r c row col hrow hcol er ec => ?onGrid, fun r c hbefore => ?before⟩
  case onGrid =>
    have hr := r.isLt
    have hc := c.isLt
    have reach : inReach s.straps.drawPolicy (s.spriteCol x) (s.spriteRow y) r c = true := by
      rw [hclip, inReach, State.spriteRow, State.spriteCol, Bool.and_eq_true, decide_eq_true_iff, decide_eq_true_iff]
      omega
    rw [drawn_pixel_on, spriteCovers_eq_bit reach hrow hcol]
    · rw [State.spriteRow]; omega
    · rw [State.spriteCol]; omega
  case before =>
    have reach : inReach s.straps.drawPolicy (s.spriteCol x) (s.spriteRow y) r c = false := by
      rw [hclip, inReach, State.spriteRow, State.spriteCol, Bool.and_eq_false_iff, decide_eq_false_iff_not,
        decide_eq_false_iff_not]
      omega
    rw [drawn_pixel, if_neg (by rw [spriteCovers_of_not_inReach reach]; exact Bool.false_ne_true)]

/-- Settles O56: both draws cover the same pixels, so the second toggles each back, and finds on what the first lit. -/
theorem drawingTwiceRestoresTheDisplay : Obligations.DrawingTwiceRestoresTheDisplay := by
  intro x y n s hx hy
  refine ⟨s.drawn x y n, (s.drawn x y n).drawn x y n, rfl, rfl, fun r c => ?status, ?collision⟩
  case status =>
    rw [drawn_pixel_on, drawn_pixel_on, drawn_spriteCovers hx hy, Bool.xor_assoc, Bool.xor_self, Bool.xor_false]
  case collision =>
    rw [drawn_flag_eq_one_iff]
    refine exists₂_congr fun r c => ?_
    rw [drawn_spriteCovers hx hy, drawn_pixel_on]
    refine and_congr_right fun hcov => ?_
    rw [hcov, Bool.xor_true, Bool.not_eq_true']

/-- Settles O27: a step that is neither CLS nor DRW leaves the display, or decays it, which keeps every status. -/
theorem pixelStatusIsTheXorOfDraws : Obligations.PixelStatusIsTheXorOfDraws := by
  intro s t h r c
  unfold litAfter
  split
  · next hcls =>
    rw [step_of_executing hcls] at h
    cases h
    rw [State.advance_pixel, State.setPix_blank_pixel]
    rfl
  · next x y n hdrw =>
    rw [step_of_executing hdrw, exec_drw] at h
    cases h
    rw [drawn_pixel_on, afterTurn_pixel, afterTurn_spriteCovers]
  · next hcls hdrw =>
    by_cases hc : s.nextTurn = .cpu
    · have hpix : t.pix = s.pix := (cpuTurn_frame h hc).pix.resolve_right fun q =>
        q.elim hcls fun ⟨x, y, n, e⟩ => hdrw x y n e
      rw [State.pixel, State.pixel, hpix]
    · exact (eventTurn_frame h hc).status r c

end Sys2Proof.Machine
end
